-- ==== Sys2Proof/Word.lean ====
section
/-! DEFINITION. The widths of the block's registers, one name each (spec/10_state.md, the table of its
opening; spec/00_scope.md rule R6). Every value is unsigned and bit 0 is the least significant (rule R7). -/

namespace Sys2Proof

/-- An EV word: four 4-bit fields (W_EV = 16, rules R20 and R21). -/
abbrev EvWord := BitVec 16

/-- A 4-bit value: a field of EV, a digit, SUB or SEC (rules R21, R25, R26, R31). -/
abbrev Nibble := BitVec 4

/-- A SEG pattern, and the byte a table row's bits are presented in (rule R71). -/
abbrev Byte := BitVec 8

/-- A DSEL pattern (rule R72). -/
abbrev Lines := BitVec 5

/-- A request vector, the format of PEND (rule R75). -/
abbrev Requests := BitVec 5

/-- A value of CUR, W_CUR = 3 (rule R24). -/
abbrev Cursor := BitVec 3

end Sys2Proof
end

