-- ==== Sys2Proof/Syntax.lean ====
section
/-! DEFINITION. The rows of spec/opcode_table.json. The block executes no instruction words
(spec/30_encoding.md); what the table lists are the operations a request starts, the cases of three
internal decodes, the fifteen micro-operations and the power-on reset. One constructor per row, in the
table's order. A row whose mask leaves bits of CUR, F3 or the digit open carries that value as its operand;
the open bits of a PEND row are other requests, which stay pending and are no operand (rules R76, R80). -/

namespace Sys2Proof

/-- The table's column "format": which bits a row's match and mask speak of. -/
inductive Format where
  /-- PEND at an idle boundary, 5 bits (rules R75, R76). -/
  | pend
  /-- CUR, 3 bits, decoded by A0 (rule R77). -/
  | cur
  /-- F3 = EV[15:12], 4 bits (rule R114). -/
  | f3
  /-- The digit value given to ENC, 4 bits (rule R100). -/
  | digit
  /-- The ordinal of TPH, 4 bits, an index of the table only (rule R83). -/
  | tph
  /-- The ordinal of APH, 3 bits, an index of the table only (rule R83). -/
  | aph
  /-- The pin por_n, 1 bit, active-low (rule R38). -/
  | por
  deriving DecidableEq, Repr

/-- The five request sources (rule R171). -/
inductive Source where
  | slow
  | fast
  | start
  | rst
  | stop
  deriving DecidableEq, Repr

/-- One row of the opcode table. -/
inductive Instr where
  /-- TICK, the whole operation (rules R130, R140). -/
  | tick
  /-- ADV, the whole operation (rule R110). -/
  | adv
  /-- START (rule R160). -/
  | start
  /-- RST (rule R161). -/
  | rst
  /-- STOP (rule R162). -/
  | stop
  /-- NOP (rule R163). -/
  | nop
  /-- ADV.D0 (rule R118). -/
  | advD0
  /-- ADV.D1 (rule R119). -/
  | advD1
  /-- ADV.D2 (rule R120). -/
  | advD2
  /-- ADV.D3 (rule R121). -/
  | advD3
  /-- ADV.COLON (rule R122). -/
  | advColon
  /-- ADV.CLAMP, the row CUR = 5 (rule R123). -/
  | advClamp5
  /-- ADV.CLAMP, the row CUR = 6 or 7 (rule R123). -/
  | advClamp67 (cur : Cursor)
  /-- D3DEC.GEN, the row f = 0x0 to 0x7 (rule R114). -/
  | d3decGen07 (f : Nibble)
  /-- D3DEC.8 (rule R114). -/
  | d3dec8
  /-- D3DEC.9 (rule R114). -/
  | d3dec9
  /-- D3DEC.GEN, the row f = 0xA or 0xB (rule R114). -/
  | d3decGenAB (f : Nibble)
  /-- D3DEC.GEN, the row f = 0xC or 0xD (rule R114). -/
  | d3decGenCD (f : Nibble)
  /-- D3DEC.GEN, the row f = 0xE (rule R114). -/
  | d3decGenE
  /-- D3DEC.F (rule R114). -/
  | d3decF
  /-- ENC.0 (rules R100, R101). -/
  | enc0
  /-- ENC.1 -/
  | enc1
  /-- ENC.2 -/
  | enc2
  /-- ENC.3 -/
  | enc3
  /-- ENC.4 -/
  | enc4
  /-- ENC.5 -/
  | enc5
  /-- ENC.6 -/
  | enc6
  /-- ENC.7 -/
  | enc7
  /-- ENC.8 -/
  | enc8
  /-- ENC.9 -/
  | enc9
  /-- ENC.OOR, the row d = 10 or 11 (rule R102). -/
  | encOorAB (d : Nibble)
  /-- ENC.OOR, the row d = 12 to 15 (rule R102). -/
  | encOorCF (d : Nibble)
  /-- TICK.K0, the gate (rule R131). -/
  | tickK0
  /-- TICK.K1, the terminal test before any arithmetic (rule R132). -/
  | tickK1
  /-- TICK.K2, the hundredths step (rule R133). -/
  | tickK2
  /-- TICK.K3, the terminal test after the hundredths step (rule R134). -/
  | tickK3
  /-- TICK.K4, the seconds carry (rule R135). -/
  | tickK4
  /-- TICK.K5, the terminal test after the seconds carry (rule R136). -/
  | tickK5
  /-- TICK.K6, the minutes carry (rule R137). -/
  | tickK6
  /-- TICK.K7, the terminal test after the minutes carry (rule R138). -/
  | tickK7
  /-- TICK.K8, the safety-net mask and the end (rule R139). -/
  | tickK8
  /-- ADV.A0, dispatch and clamp (rule R111). -/
  | advA0
  /-- ADV.A1, blank (rule R112). -/
  | advA1
  /-- ADV.A2, extract (rule R113). -/
  | advA2
  /-- ADV.A3, write the segments (rule R115). -/
  | advA3
  /-- ADV.A4, enable (rule R116). -/
  | advA4
  /-- ADV.A5, advance the cursor (rule R117). -/
  | advA5
  /-- POR, the power-on reset (rule R200). -/
  | por
  deriving DecidableEq, Repr

end Sys2Proof
end

