-- ==== Sys2Proof/WellFormed.lean ====
section
/-! DEFINITION. Which terms of Instr are rows of the table: an operand lies in the range its row's match
and mask admit (spec/opcode_table.json). -/

namespace Sys2Proof

/-- The operand, where the row has one, is a value the row matches. -/
def Instr.wf : Instr → Bool
  | .advClamp67 cur => cur == 6 || cur == 7
  | .d3decGen07 f => f ≤ 7
  | .d3decGenAB f => f == 0xA || f == 0xB
  | .d3decGenCD f => f == 0xC || f == 0xD
  | .encOorAB d => d == 10 || d == 11
  | .encOorCF d => 12 ≤ d
  | .tick | .adv | .start | .rst | .stop | .nop => true
  | .advD0 | .advD1 | .advD2 | .advD3 | .advColon | .advClamp5 => true
  | .d3dec8 | .d3dec9 | .d3decGenE | .d3decF => true
  | .enc0 | .enc1 | .enc2 | .enc3 | .enc4 | .enc5 | .enc6 | .enc7 | .enc8 | .enc9 => true
  | .tickK0 | .tickK1 | .tickK2 | .tickK3 | .tickK4 | .tickK5 | .tickK6 | .tickK7 | .tickK8 => true
  | .advA0 | .advA1 | .advA2 | .advA3 | .advA4 | .advA5 => true
  | .por => true

end Sys2Proof
end

