-- ==== Sys2Proof/Decode.lean ====
section
/-! DEFINITION. The decodes of spec/30_encoding.md (rules R76, R77, R83), spec/41_digit_multiplexer.md
(rule R114), spec/40_display_encoder.md (rule R100) and spec/10_state.md (rule R38, por_n), and the encoder.
A row is named by its format and its bits, presented in one byte. -/

namespace Sys2Proof

/-- Why a byte names no row of a format. -/
inductive DecodeError where
  /-- A bit above the format's width is 1. -/
  | unusedBits
  /-- The ordinal does not exist (TPH 9 to 15, APH 6 and 7). -/
  | noSuchPhase
  /-- por_n is 1: the reset line is not asserted. -/
  | resetInactive
  /-- A trace word's second byte names no format. -/
  | noSuchFormat
  deriving DecidableEq, Repr

/-- What a decoder answers. -/
inductive Decoded where
  | instr (i : Instr)
  | rejected (why : DecodeError)
  deriving DecidableEq, Repr

/-- The width of a format in bits (the table's column "width"). -/
def Format.width : Format → Nat
  | .pend => 5
  | .cur => 3
  | .f3 => 4
  | .digit => 4
  | .tph => 4
  | .aph => 3
  | .por => 1

/-- Rule R76: the operation of the most significant 1 bit. -/
def decodePend (v : Requests) : Decoded :=
  if v.getLsbD 4 then .instr .tick
  else if v.getLsbD 3 then .instr .adv
  else if v.getLsbD 2 then .instr .start
  else if v.getLsbD 1 then .instr .rst
  else if v.getLsbD 0 then .instr .stop
  else .instr .nop

/-- Rule R77: the sub-routine CUR selects. -/
def decodeCur (c : Cursor) : Decoded :=
  match c.toNat with
  | 0 => .instr .advD0
  | 1 => .instr .advD1
  | 2 => .instr .advD2
  | 3 => .instr .advD3
  | 4 => .instr .advColon
  | 5 => .instr .advClamp5
  | _ => .instr (.advClamp67 c)

/-- Rule R114: the row of the digit3 decode. -/
def decodeF3 (f : Nibble) : Decoded :=
  if f ≤ 7 then .instr (.d3decGen07 f)
  else match f.toNat with
    | 8 => .instr .d3dec8
    | 9 => .instr .d3dec9
    | 10 | 11 => .instr (.d3decGenAB f)
    | 12 | 13 => .instr (.d3decGenCD f)
    | 14 => .instr .d3decGenE
    | _ => .instr .d3decF

/-- Rules R100 to R102: the row of the encoder table. -/
def decodeDigit (d : Nibble) : Decoded :=
  match d.toNat with
  | 0 => .instr .enc0
  | 1 => .instr .enc1
  | 2 => .instr .enc2
  | 3 => .instr .enc3
  | 4 => .instr .enc4
  | 5 => .instr .enc5
  | 6 => .instr .enc6
  | 7 => .instr .enc7
  | 8 => .instr .enc8
  | 9 => .instr .enc9
  | 10 | 11 => .instr (.encOorAB d)
  | _ => .instr (.encOorCF d)

/-- Rule R83: the micro-operation of TICK by the ordinal of TPH (IDLE = 0, K1 to K8 = 1 to 8). -/
def decodeTph (n : Nibble) : Decoded :=
  match n.toNat with
  | 0 => .instr .tickK0
  | 1 => .instr .tickK1
  | 2 => .instr .tickK2
  | 3 => .instr .tickK3
  | 4 => .instr .tickK4
  | 5 => .instr .tickK5
  | 6 => .instr .tickK6
  | 7 => .instr .tickK7
  | 8 => .instr .tickK8
  | _ => .rejected .noSuchPhase

/-- Rule R83: the micro-operation of ADV by the ordinal of APH (IDLE = 0, A1 to A5 = 1 to 5). -/
def decodeAph (n : BitVec 3) : Decoded :=
  match n.toNat with
  | 0 => .instr .advA0
  | 1 => .instr .advA1
  | 2 => .instr .advA2
  | 3 => .instr .advA3
  | 4 => .instr .advA4
  | 5 => .instr .advA5
  | _ => .rejected .noSuchPhase

/-- por_n is active-low (rule R38). -/
def decodePor (pin : BitVec 1) : Decoded :=
  if pin == 0 then .instr .por else .rejected .resetInactive

/-- The row that a format's bits name; total on all bytes. -/
def decode (f : Format) (b : Byte) : Decoded :=
  if 2 ^ f.width ≤ b.toNat then .rejected .unusedBits
  else match f with
    | .pend => decodePend (b.setWidth 5)
    | .cur => decodeCur (b.setWidth 3)
    | .f3 => decodeF3 (b.setWidth 4)
    | .digit => decodeDigit (b.setWidth 4)
    | .tph => decodeTph (b.setWidth 4)
    | .aph => decodeAph (b.setWidth 3)
    | .por => decodePor (b.setWidth 1)

/-- A row of spec/opcode_table.json: its format, mask and match. -/
structure Row where
  format : Format
  mask : Byte
  value : Byte
  deriving DecidableEq, Repr

/-- The table's row of a constructor, column by column as the table gives it. -/
def Instr.row : Instr → Row
  | .tick => ⟨.pend, 0x10, 0x10⟩
  | .adv => ⟨.pend, 0x18, 0x08⟩
  | .start => ⟨.pend, 0x1C, 0x04⟩
  | .rst => ⟨.pend, 0x1E, 0x02⟩
  | .stop => ⟨.pend, 0x1F, 0x01⟩
  | .nop => ⟨.pend, 0x1F, 0x00⟩
  | .advD0 => ⟨.cur, 0x7, 0x0⟩
  | .advD1 => ⟨.cur, 0x7, 0x1⟩
  | .advD2 => ⟨.cur, 0x7, 0x2⟩
  | .advD3 => ⟨.cur, 0x7, 0x3⟩
  | .advColon => ⟨.cur, 0x7, 0x4⟩
  | .advClamp5 => ⟨.cur, 0x7, 0x5⟩
  | .advClamp67 _ => ⟨.cur, 0x6, 0x6⟩
  | .d3decGen07 _ => ⟨.f3, 0x8, 0x0⟩
  | .d3dec8 => ⟨.f3, 0xF, 0x8⟩
  | .d3dec9 => ⟨.f3, 0xF, 0x9⟩
  | .d3decGenAB _ => ⟨.f3, 0xE, 0xA⟩
  | .d3decGenCD _ => ⟨.f3, 0xE, 0xC⟩
  | .d3decGenE => ⟨.f3, 0xF, 0xE⟩
  | .d3decF => ⟨.f3, 0xF, 0xF⟩
  | .enc0 => ⟨.digit, 0xF, 0x0⟩
  | .enc1 => ⟨.digit, 0xF, 0x1⟩
  | .enc2 => ⟨.digit, 0xF, 0x2⟩
  | .enc3 => ⟨.digit, 0xF, 0x3⟩
  | .enc4 => ⟨.digit, 0xF, 0x4⟩
  | .enc5 => ⟨.digit, 0xF, 0x5⟩
  | .enc6 => ⟨.digit, 0xF, 0x6⟩
  | .enc7 => ⟨.digit, 0xF, 0x7⟩
  | .enc8 => ⟨.digit, 0xF, 0x8⟩
  | .enc9 => ⟨.digit, 0xF, 0x9⟩
  | .encOorAB _ => ⟨.digit, 0xE, 0xA⟩
  | .encOorCF _ => ⟨.digit, 0xC, 0xC⟩
  | .tickK0 => ⟨.tph, 0xF, 0x0⟩
  | .tickK1 => ⟨.tph, 0xF, 0x1⟩
  | .tickK2 => ⟨.tph, 0xF, 0x2⟩
  | .tickK3 => ⟨.tph, 0xF, 0x3⟩
  | .tickK4 => ⟨.tph, 0xF, 0x4⟩
  | .tickK5 => ⟨.tph, 0xF, 0x5⟩
  | .tickK6 => ⟨.tph, 0xF, 0x6⟩
  | .tickK7 => ⟨.tph, 0xF, 0x7⟩
  | .tickK8 => ⟨.tph, 0xF, 0x8⟩
  | .advA0 => ⟨.aph, 0x7, 0x0⟩
  | .advA1 => ⟨.aph, 0x7, 0x1⟩
  | .advA2 => ⟨.aph, 0x7, 0x2⟩
  | .advA3 => ⟨.aph, 0x7, 0x3⟩
  | .advA4 => ⟨.aph, 0x7, 0x4⟩
  | .advA5 => ⟨.aph, 0x7, 0x5⟩
  | .por => ⟨.por, 0x1, 0x0⟩

/-- Whether a row of the table matches the bits of its format. -/
def Row.fits (r : Row) (f : Format) (b : Byte) : Bool :=
  r.format == f && decide (b.toNat < 2 ^ f.width) && b &&& r.mask == r.value

/-- The operand of a row that has one, as a byte; 0 where the row has none. -/
def Instr.operandBits : Instr → Byte
  | .advClamp67 cur => cur.setWidth 8
  | .d3decGen07 f => f.setWidth 8
  | .d3decGenAB f => f.setWidth 8
  | .d3decGenCD f => f.setWidth 8
  | .encOorAB d => d.setWidth 8
  | .encOorCF d => d.setWidth 8
  | .tick | .adv | .start | .rst | .stop | .nop => 0
  | .advD0 | .advD1 | .advD2 | .advD3 | .advColon | .advClamp5 => 0
  | .d3dec8 | .d3dec9 | .d3decGenE | .d3decF => 0
  | .enc0 | .enc1 | .enc2 | .enc3 | .enc4 | .enc5 | .enc6 | .enc7 | .enc8 | .enc9 => 0
  | .tickK0 | .tickK1 | .tickK2 | .tickK3 | .tickK4 | .tickK5 | .tickK6 | .tickK7 | .tickK8 => 0
  | .advA0 | .advA1 | .advA2 | .advA3 | .advA4 | .advA5 => 0
  | .por => 0

/-- The bits of a well-formed row: its match, with its operand in the bits its mask leaves open. -/
def encodeBits (i : Instr) : Byte := i.row.value ||| (i.operandBits &&& ~~~i.row.mask)

/-- The encoder: the format and the bits of a well-formed row. -/
def encode (i : Instr) : Format × Byte := (i.row.format, encodeBits i)

/-- The number of a format in a trace word: its place in the table. DESIGN CHOICE (log entry 2): the
seven formats share their bit patterns, and the spec gives no word that tells them apart. -/
def Format.number : Format → Byte
  | .pend => 0
  | .cur => 1
  | .f3 => 2
  | .digit => 3
  | .tph => 4
  | .aph => 5
  | .por => 6

/-- The format a trace word's second byte names. -/
def Format.ofNumber (b : Byte) : Option Format :=
  match b.toNat with
  | 0 => some .pend
  | 1 => some .cur
  | 2 => some .f3
  | 3 => some .digit
  | 4 => some .tph
  | 5 => some .aph
  | 6 => some .por
  | _ => none

/-- The decoder of a trace word: the row's bits first, then the number of its format. -/
def decodeBytes (bits sel : Byte) : Decoded :=
  match Format.ofNumber sel with
  | some f => decode f bits
  | none => .rejected .noSuchFormat

/-- The two bytes of a well-formed row's trace word. -/
def encodeBytes (i : Instr) : Byte × Byte := (encodeBits i, i.row.format.number)

/-- The instruction the decoder reads from the bits of a table row. A row's own byte, with nothing above
it, is read in format PEND, which is what the idle block decodes (rule R76). -/
def decodeTableWord (nbits w : Nat) : Option Instr :=
  let bits := w % 2 ^ nbits
  if 2 ^ 16 ≤ bits then none
  else match decodeBytes (BitVec.ofNat 8 bits) (BitVec.ofNat 8 (bits / 256)) with
    | .instr i => some i
    | .rejected _ => none

end Sys2Proof
end

