-- ==== Sys2Proof/Config.lean ====
section
/-! DEFINITION. What is fixed for the life of a block: the configuration record of spec/10_state.md rule
R41 with the parameters of spec/00_scope.md rule R6, the values the spec takes for them, and the values
the spec leaves free. The widths and counts of rule R6 (W_EV, W_SUB, W_SEC, W_CUR, N_POS, N_DIG, N_SEG,
N_BTN) are carried by the types of Word, State and Syntax; T_ADV ("about 2 ms") has no exact value and
no rule reads it. -/

namespace Sys2Proof

/-- The parameters of rule R6 that a rule reads. Every micro-operation takes the record as an argument, so
that a statement can hold for other parameters too (rule R212). -/
structure Config where
  /-- TERMINAL (decision D5). -/
  terminal : EvWord
  /-- STEP_H (decision D6). -/
  stepH : EvWord
  /-- STEP_S (decision D6). -/
  stepS : EvWord
  /-- STEP_M (decision D6). -/
  stepM : EvWord
  /-- MASK_S (decision D7). -/
  maskS : EvWord
  /-- MASK_M (decision D7). -/
  maskM : EvWord
  /-- MASK_SAFE (decision D7). -/
  maskSafe : EvWord
  /-- CARRY_N, the carry threshold of SUB and SEC. -/
  carryN : Nibble
  /-- SEGTAB[0] to SEGTAB[9] (rule R101, decision D14). -/
  segTab : Vector Byte 10
  /-- D3_SENTINELS: field value, digit shown (rule R114, decision D13). -/
  d3Sentinels : List (Nibble × Nibble)
  /-- COLON_PAT (rule R122, decision D15). -/
  colonPat : Byte
  /-- RST_CLEARS_COUNTERS (rule R161, decision D10). -/
  rstClearsCounters : Bool
  /-- PREEMPT (rule R59, decision D20). -/
  preempt : Bool
  deriving DecidableEq, Repr

namespace Config

/-- The open parameter COLON_PAT before its one constraint is applied: free, no value of it is provable. -/
opaque colonFree : Byte

/-- The draw any8 of rules R51 and R102, one per draw number: free. -/
opaque any8 : Nat → Byte

/-- The sequencer's choice where rule R185 enables several steps, one per choice number: free. -/
opaque freeChoice : Nat → Nat

/-- T_TICK, the open period of the slow source, in a unit the spec does not name (rules R6 and R179). No
rule reads it. -/
opaque tTick : Nat

/-- The constraint of rule R122: the colon pattern differs from every digit pattern. -/
def colonDistinct (table : Vector Byte 10) (p : Byte) : Bool := table.toList.all (· != p)

/-- The digit patterns of rule R101. -/
def digitPatterns : Vector Byte 10 :=
  #v[0xC0, 0xF9, 0xA4, 0xB0, 0x99, 0x92, 0x82, 0xF8, 0x80, 0x90]

/-- COLON_PAT: the free byte where it meets the constraint of rule R122, so that it may be any admissible
pattern and no other. The byte taken where the free byte is inadmissible is admissible too. -/
def colonPattern : Byte := if colonDistinct digitPatterns colonFree then colonFree else 0xFF

/-- The block of the spec: the column "value taken" of rule R6 and the constants of rule R73. -/
def block : Config where
  terminal := 0x9990
  stepH := 0x0010
  stepS := 0x0100
  stepM := 0x1000
  maskS := 0xFF0F
  maskM := 0xF0FF
  maskSafe := 0xFFF0
  carryN := 10
  segTab := digitPatterns
  d3Sentinels := [(0x8, 8), (0x9, 9), (0xF, 9)]
  colonPat := colonPattern
  rstClearsCounters := false
  preempt := true

end Config

end Sys2Proof
end

