-- ==== Sys2Proof/Machine/State.lean ====
section
/-! DEFINITION. The state of the machine: the block's registers (spec/10_state.md, the table of its opening),
and three fields of the model's own: the numbers of the next draw and the next choice, and the agenda. -/

namespace Sys2Proof.Machine

/-- TPH: which micro-operation of TICK runs next (rule R30). -/
inductive TickPhase where
  | idle
  | k1
  | k2
  | k3
  | k4
  | k5
  | k6
  | k7
  | k8
  deriving DecidableEq, Repr

/-- APH: which micro-operation of ADV runs next (rule R31). -/
inductive AdvPhase where
  | idle
  | a1
  | a2
  | a3
  | a4
  | a5
  deriving DecidableEq, Repr

/-- The five display positions; P holds one (rules R1, R31 and R83). -/
inductive Position where
  | digit0
  | digit1
  | digit2
  | digit3
  | colon
  deriving DecidableEq, Repr

/-- One entry of the agenda: whose turn it is and what it does (rules R57, R80, R183). -/
inductive Turn where
  /-- The block takes the step that a table row names, given by its format and bits (the lines TICK.Kn,
  ADV.An, DO b and POR of rule R80, and the second half of the lines TICK, ADV, START, RST, STOP, NOP). -/
  | row (format : Format) (bits : Byte)
  /-- The environment raises the requests of a vector (the line REQ of rule R80, Raise of rule R183). -/
  | req (v : Requests)
  /-- The block takes the step the reference sequencer chooses (the line STEP, rule R186). -/
  | step
  /-- The block takes the step the second sequencer chooses (the line STEP2, rule R187). -/
  | step2
  /-- The block takes any step rule R185 enables. -/
  | free
  deriving DecidableEq, Repr

/-- The machine's state. -/
structure State where
  /-- EV, the packed elapsed time (rules R20, R21). -/
  ev : EvWord
  /-- RUN, true = counting (rule R23). -/
  run : Bool
  /-- CUR, the next display position, 0 to 7 representable (rule R24). -/
  cur : Cursor
  /-- SUB, the sub-tick counter (rule R25). -/
  sub : Nibble
  /-- SEC, the second internal counter (rule R26). -/
  sec : Nibble
  /-- SEG, the segment output register, active-low (rule R27). -/
  seg : Byte
  /-- DSEL, the digit-select output register, active-low (rule R28). -/
  dsel : Lines
  /-- PEND, one pending bit per source (rule R29). -/
  pend : Requests
  /-- TPH (rule R30). -/
  tph : TickPhase
  /-- C1, the seconds carry was taken in the TICK in progress (rules R30, R40). -/
  c1 : Bool
  /-- C2, the minutes carry was taken in the TICK in progress (rules R30, R40). -/
  c2 : Bool
  /-- APH (rule R31). -/
  aph : AdvPhase
  /-- P, the position latched by the ADV in progress (rule R31). -/
  p : Position
  /-- D, the digit latched by the ADV in progress (rule R31). -/
  d : Nibble
  /-- The model's own: how many draws any8 were made (log entry 3). -/
  draws : Nat
  /-- The model's own: how many free choices among enabled steps were made (log entry 4). -/
  choices : Nat
  /-- The model's own: the turns still to come; when it is empty the environment is silent and the block
  steps freely (log entry 1). -/
  agenda : List Turn
  deriving DecidableEq, Repr

/-- The machine has no fault: "A model therefore has no fault outcome for any step of the block"
(rule R170), so this type has no constructor and nothing can raise one. -/
inductive Fault where
  deriving DecidableEq, Repr

/-- The refusals. No step that the block takes of its own accord is refused; these answer a turn of the
agenda, or an instruction executed directly, that names no step of the block. -/
inductive Refusal where
  /-- Raised by exec for an instruction without a meaning; no arm of exec raises it. Safe. -/
  | notModelled (mnemonic : String)
  /-- Raised by a meaning whose step rule R185 does not enable in the state ("exactly the following steps,
  and no others"; rule R80, "legal only if"), or whose row is not the one the registers select. Safe. -/
  | notEnabled
  /-- Raised by step for a turn whose bits name no row of the table. Safe. -/
  | undecodable
  deriving DecidableEq, Repr

/-- After POR (rule R35). The model's own fields start at zero and empty (log entries 1, 3 and 4). -/
def State.reset : State where
  ev := 0x0000
  run := false
  cur := 0
  sub := 0
  sec := 0
  seg := 0xFF
  dsel := 0x1F
  pend := 0b00000
  tph := .idle
  c1 := false
  c2 := false
  aph := .idle
  p := .digit0
  d := 0
  draws := 0
  choices := 0
  agenda := []

end Sys2Proof.Machine
end

