-- ==== Sys2Proof/Machine/Ops.lean ====
section
/-! DEFINITION. The shared operations on registers. What other machines do when they take an exception is
here the setting and clearing of a pending bit (State.raise, State.clear): starting an operation "saves
nothing and changes no mode, mask or stack" (spec/60_exceptions.md rule R175), and its return is the write
of its phase register (State.endTick, rule R176). -/

namespace Sys2Proof.Machine

/-- The PEND bit of a source (rule R75). -/
def pendBit : Source → Nat
  | .slow => 4
  | .fast => 3
  | .start => 2
  | .rst => 1
  | .stop => 0

/-- The request vector with the source's bit alone (rules R75, R80). -/
def pendVector (r : Source) : Requests := 1 <<< pendBit r

/-- Whether the source's PEND bit is 1. -/
def State.pending (s : State) (r : Source) : Bool := s.pend.getLsbD (pendBit r)

/-- The environment's move: PEND <- PEND OR v (rules R80, R172, R183). A bit that is 1 stays 1. -/
def State.raise (s : State) (v : Requests) : State := { s with pend := s.pend ||| v }

/-- The block's move: the source's PEND bit <- 0, no other bit (rules R29, R165). -/
def State.clear (s : State) (r : Source) : State := { s with pend := s.pend &&& ~~~pendVector r }

/-- "end" of spec/42_elapsed_counter.md section 2: TPH <- IDLE, C1 <- 0, C2 <- 0. -/
def State.endTick (s : State) : State := { s with tph := .idle, c1 := false, c2 := false }

/-- TPH <- the next phase. -/
def State.toTick (s : State) (ph : TickPhase) : State := { s with tph := ph }

/-- APH <- the next phase. -/
def State.toAdv (s : State) (ph : AdvPhase) : State := { s with aph := ph }

/-- The first turn of the agenda is taken off. -/
def State.popTurn (s : State) : State := { s with agenda := s.agenda.tail }

/-- A free choice was made; the next one has the next number. -/
def State.chosen (s : State) : State := { s with choices := s.choices + 1 }

/-- What stands outside the block can see: the ports seg and dsel (rule R38). -/
def State.ports (s : State) : Byte × Lines := (s.seg, s.dsel)

end Sys2Proof.Machine
end

