-- ==== Sys2Proof/Machine/Operands.lean ====
section
/-! DEFINITION. The operand forms of the block: fields of EV, positions, the digit3 decode, the table reads
and the encoder (spec/20_memory.md rule R51, spec/30_encoding.md rules R72 and R74,
spec/40_display_encoder.md, spec/41_digit_multiplexer.md rule R114). -/

namespace Sys2Proof.Machine

/-- field(k) = (EV AND (0xF << 4k)) >> 4k (rule R74). -/
def field (ev : EvWord) (k : Nat) : Nibble := ((ev &&& (0xF#16 <<< (4 * k))) >>> (4 * k)).setWidth 4

/-- The number of a position, 0 to 4. -/
def Position.index : Position → Nat
  | .digit0 => 0
  | .digit1 => 1
  | .digit2 => 2
  | .digit3 => 3
  | .colon => 4

/-- The position A0 latches: CUR where it is 0 to 4, else position 0, the clamp (rules R77, R111). -/
def positionOf (cur : Cursor) : Position :=
  match cur.toNat with
  | 1 => .digit1
  | 2 => .digit2
  | 3 => .digit3
  | 4 => .colon
  | _ => .digit0

/-- What A0 leaves in CUR: a value above 4 becomes 0 (rule R111). -/
def clampCursor (cur : Cursor) : Cursor := if 4 < cur then 0 else cur

/-- What A5 writes to CUR: the position after this one, 0 after the colon (rule R117). -/
def cursorAfter (p : Position) : Cursor :=
  if p = .colon then 0 else BitVec.ofNat 3 (Position.index p) + 1

/-- DSELPAT(p) = 0x1F AND NOT (1 << p) (rule R72). -/
def dselPat (p : Position) : Lines := 0x1F &&& ~~~(1#5 <<< Position.index p)

/-- D3DEC(f): the sentinel's digit, else f itself (rule R114). -/
def d3dec (c : Config) (f : Nibble) : Nibble := (c.d3Sentinels.lookup f).getD f

/-- TableRead(SEGTAB, d): an entry for d = 0 to 9, none for an index the table does not define
(rules R50, R51). -/
def segTabRead (c : Config) (d : Nibble) : Option Byte := c.segTab[d.toNat]?

/-- SEG <- ENC(d): the table's pattern, or a fresh draw any8 where the table defines none
(rules R100, R102; the draw is free, log entry 3). -/
def State.writeEnc (c : Config) (s : State) (d : Nibble) : State :=
  match segTabRead c d with
  | some pattern => { s with seg := pattern }
  | none => { s with seg := Config.any8 s.draws, draws := s.draws + 1 }

/-- The digit A2 latches for the position P (rule R113). The colon shows no field; D stays. -/
def extract (c : Config) (s : State) : Nibble :=
  match s.p with
  | .digit0 => field s.ev 0
  | .digit1 => field s.ev 1
  | .digit2 => field s.ev 2
  | .digit3 => d3dec c (field s.ev 3)
  | .colon => s.d

end Sys2Proof.Machine
end

