-- ==== Sys2Proof/Machine/Flags.lean ====
section
/-! DEFINITION. The conditions of the block: the terminal tests and the auto-stop that writes RUN, the two
carries that write C1 and C2, and the enabling conditions of the step relation (spec/42_elapsed_counter.md,
spec/60_exceptions.md rule R185). -/

namespace Sys2Proof.Machine

/-- The auto-stop: RUN <- 0 and the TICK ends (rules R132, R141). -/
def State.autoStop (s : State) : State := { s.endTick with run := false }

/-- A terminal test, made only where its condition holds: auto-stop when EV equals TERMINAL, else on to the
next phase (rules R132, R134, R136, R138). Equality is the only comparison (rule R141). -/
def terminalTest (c : Config) (made : Bool) (next : TickPhase) (s : State) : State :=
  if made && s.ev == c.terminal then s.autoStop else s.toTick next

/-- The binary addition of a step, modulo 2^16, and the mask that goes with the carry (rules R135, R137,
R142). -/
def addMask (ev step mask : EvWord) : EvWord := (ev + step) &&& mask

/-- btn_ok of rule R185. -/
def btnOk (c : Config) (s : State) : Bool :=
  c.preempt || (s.tph == .idle && s.aph == .idle && !s.pending .slow && !s.pending .fast)

/-- (B) of rule R185: the button operation of a source is enabled. -/
def buttonEnabled (c : Config) (r : Source) (s : State) : Bool := s.pending r && btnOk c s

/-- (T) of rule R185: the micro-operation of TICK that the phase ph selects is enabled. -/
def tickEnabled (ph : TickPhase) (s : State) : Bool :=
  s.tph == ph && (ph != .idle || s.pending .slow)

/-- (A) of rule R185: the micro-operation of ADV that the phase ph selects is enabled. -/
def advEnabled (ph : AdvPhase) (s : State) : Bool :=
  s.tph == .idle && !s.pending .slow && s.aph == ph && (ph != .idle || s.pending .fast)

/-- A step that is taken where it is enabled, and is no step of the block elsewhere (rule R185). -/
def whenEnabled (enabled : Bool) (after : State) : Host.Outcome State Fault Refusal :=
  if enabled then .next after else .refused .notEnabled

end Sys2Proof.Machine
end

