-- ==== Sys2Proof/Machine/Buttons.lean ====
section
/-! DEFINITION. The button operations, NOP and the power-on reset (spec/43_buttons.md,
spec/70_reset_and_hazards.md rule R200). -/

namespace Sys2Proof.Machine

/-- START: RUN <- 1 (rule R160). -/
def microStart (s : State) : State := { s.clear .start with run := true }

/-- RST: EV <- 0 and RUN <- 0 together, and SUB and SEC <- 0 where RST_CLEARS_COUNTERS (rule R161). -/
def microRst (c : Config) (s : State) : State :=
  if c.rstClearsCounters then { s.clear .rst with ev := 0x0000, run := false, sub := 0, sec := 0 }
  else { s.clear .rst with ev := 0x0000, run := false }

/-- STOP: RUN <- 0 (rule R162). -/
def microStop (s : State) : State := { s.clear .stop with run := false }

/-- POR: every register takes the value of rule R35 in one step (rule R200). The model's own fields are no
registers: the turns to come stay, and draws and choices go on being fresh (log entry 1). -/
def powerOnReset (s : State) : State :=
  { State.reset with draws := s.draws, choices := s.choices, agenda := s.agenda }

/-- START -/
def execStart (s : State) : Host.Outcome State Fault Refusal :=
  whenEnabled (buttonEnabled Config.block .start s) (microStart s)

/-- RST -/
def execRst (s : State) : Host.Outcome State Fault Refusal :=
  whenEnabled (buttonEnabled Config.block .rst s) (microRst Config.block s)

/-- STOP -/
def execStop (s : State) : Host.Outcome State Fault Refusal :=
  whenEnabled (buttonEnabled Config.block .stop s) (microStop s)

/-- NOP: no register changes (rule R163). -/
def execNop (s : State) : Host.Outcome State Fault Refusal := .next s

/-- POR: possible at every boundary (rule R183). -/
def execPor (s : State) : Host.Outcome State Fault Refusal := .next (powerOnReset s)

end Sys2Proof.Machine
end

