-- ==== Sys2Proof/Machine/Counter.lean ====
section
/-! DEFINITION. The Elapsed-Time Counter: the nine micro-operations of TICK and TICK as a whole
(spec/42_elapsed_counter.md). Each micro-operation is first a function of the configuration and the state. -/

namespace Sys2Proof.Machine

/-- K0, the gate (rule R131). -/
def microK0 (s : State) : State :=
  if s.run then (s.clear .slow).toTick .k1 else (s.clear .slow).endTick

/-- K1 (rule R132). -/
def microK1 (c : Config) (s : State) : State := terminalTest c true .k2 s

/-- K2, the hundredths step (rule R133). -/
def microK2 (c : Config) (s : State) : State :=
  { s with ev := s.ev + c.stepH, sub := s.sub + 1, tph := .k3 }

/-- K3 (rule R134). -/
def microK3 (c : Config) (s : State) : State := terminalTest c true .k4 s

/-- K4, the seconds carry (rule R135). -/
def microK4 (c : Config) (s : State) : State :=
  if s.sub == c.carryN then
    { s with ev := addMask s.ev c.stepS c.maskS, sub := 0, sec := s.sec + 1, c1 := true, tph := .k5 }
  else s.toTick .k5

/-- K5 (rule R136). -/
def microK5 (c : Config) (s : State) : State := terminalTest c s.c1 .k6 s

/-- K6, the minutes carry (rule R137). -/
def microK6 (c : Config) (s : State) : State :=
  if s.sec == c.carryN then
    { s with ev := addMask s.ev c.stepM c.maskM, sec := 0, c2 := true, tph := .k7 }
  else s.toTick .k7

/-- K7 (rule R138). -/
def microK7 (c : Config) (s : State) : State := terminalTest c s.c2 .k8 s

/-- K8, the safety-net mask and the end (rule R139). -/
def microK8 (c : Config) (s : State) : State :=
  if !s.c1 && !s.c2 then { s.endTick with ev := s.ev &&& c.maskSafe } else s.endTick

/-- The micro-operation of TICK that TPH selects (rule R30). -/
def microTick (c : Config) (s : State) : State :=
  match s.tph with
  | .idle => microK0 s
  | .k1 => microK1 c s
  | .k2 => microK2 c s
  | .k3 => microK3 c s
  | .k4 => microK4 c s
  | .k5 => microK5 c s
  | .k6 => microK6 c s
  | .k7 => microK7 c s
  | .k8 => microK8 c s

/-- The rest of a TICK in progress with nothing between: micro-operations until TPH = IDLE, at most n. -/
def restOfTick (c : Config) : Nat → State → State
  | 0, s => s
  | n + 1, s => if s.tph = .idle then s else restOfTick c n (microTick c s)

/-- An uninterrupted TICK: K0, then the rest, at most eight more micro-operations (rules R130, R140). -/
def wholeTick (c : Config) (s : State) : State := restOfTick c 8 (microK0 s)

/-- TICK (rules R130, R140): uninterrupted, where its first micro-operation K0 is enabled. -/
def execTick (s : State) : Host.Outcome State Fault Refusal :=
  whenEnabled (tickEnabled .idle s) (wholeTick Config.block s)

/-- TICK.K0 -/
def execTickK0 (s : State) : Host.Outcome State Fault Refusal :=
  whenEnabled (tickEnabled .idle s) (microK0 s)

/-- TICK.K1 -/
def execTickK1 (s : State) : Host.Outcome State Fault Refusal :=
  whenEnabled (tickEnabled .k1 s) (microK1 Config.block s)

/-- TICK.K2 -/
def execTickK2 (s : State) : Host.Outcome State Fault Refusal :=
  whenEnabled (tickEnabled .k2 s) (microK2 Config.block s)

/-- TICK.K3 -/
def execTickK3 (s : State) : Host.Outcome State Fault Refusal :=
  whenEnabled (tickEnabled .k3 s) (microK3 Config.block s)

/-- TICK.K4 -/
def execTickK4 (s : State) : Host.Outcome State Fault Refusal :=
  whenEnabled (tickEnabled .k4 s) (microK4 Config.block s)

/-- TICK.K5 -/
def execTickK5 (s : State) : Host.Outcome State Fault Refusal :=
  whenEnabled (tickEnabled .k5 s) (microK5 Config.block s)

/-- TICK.K6 -/
def execTickK6 (s : State) : Host.Outcome State Fault Refusal :=
  whenEnabled (tickEnabled .k6 s) (microK6 Config.block s)

/-- TICK.K7 -/
def execTickK7 (s : State) : Host.Outcome State Fault Refusal :=
  whenEnabled (tickEnabled .k7 s) (microK7 Config.block s)

/-- TICK.K8 -/
def execTickK8 (s : State) : Host.Outcome State Fault Refusal :=
  whenEnabled (tickEnabled .k8 s) (microK8 Config.block s)

end Sys2Proof.Machine
end

