-- ==== Sys2Proof/Machine/Multiplexer.lean ====
section
/-! DEFINITION. The Digit Multiplexer: the six micro-operations of ADV, ADV as a whole, its sub-routines, and
the rows of the digit3 decode, which are the cases of A2 at position 3 (spec/41_digit_multiplexer.md). -/

namespace Sys2Proof.Machine

/-- A0, dispatch and clamp (rule R111). -/
def microA0 (s : State) : State :=
  { s.clear .fast with p := positionOf s.cur, cur := clampCursor s.cur, aph := .a1 }

/-- A1, blank (rule R112). -/
def microA1 (s : State) : State := { s with dsel := 0x1F, aph := .a2 }

/-- A2, extract (rule R113). -/
def microA2 (c : Config) (s : State) : State := { s with d := extract c s, aph := .a3 }

/-- A3, write the segments (rule R115). -/
def microA3 (c : Config) (s : State) : State :=
  if s.p = .colon then { s with seg := c.colonPat, aph := .a4 }
  else (s.writeEnc c s.d).toAdv .a4

/-- A4, enable (rule R116). -/
def microA4 (s : State) : State := { s with dsel := dselPat s.p, aph := .a5 }

/-- A5, advance the cursor (rule R117). -/
def microA5 (s : State) : State := { s with cur := cursorAfter s.p, aph := .idle }

/-- The micro-operation of ADV that APH selects (rule R31). -/
def microAdv (c : Config) (s : State) : State :=
  match s.aph with
  | .idle => microA0 s
  | .a1 => microA1 s
  | .a2 => microA2 c s
  | .a3 => microA3 c s
  | .a4 => microA4 s
  | .a5 => microA5 s

/-- An uninterrupted ADV: A0 to A5, all six always executed (rule R110). -/
def wholeAdv (c : Config) (s : State) : State :=
  microA5 (microA4 (microA3 c (microA2 c (microA1 (microA0 s)))))

/-- ADV (rule R110): uninterrupted, where its first micro-operation A0 is enabled. -/
def execAdv (s : State) : Host.Outcome State Fault Refusal :=
  whenEnabled (advEnabled .idle s) (wholeAdv Config.block s)

/-- An uninterrupted ADV that the dispatch on CUR sends to one sub-routine (rule R77). -/
def execSubroutine (selected : Bool) (s : State) : Host.Outcome State Fault Refusal :=
  whenEnabled (advEnabled .idle s && selected) (wholeAdv Config.block s)

/-- ADV.D0 (rule R118). -/
def execAdvD0 (s : State) : Host.Outcome State Fault Refusal := execSubroutine (s.cur == 0) s

/-- ADV.D1 (rule R119). -/
def execAdvD1 (s : State) : Host.Outcome State Fault Refusal := execSubroutine (s.cur == 1) s

/-- ADV.D2 (rule R120). -/
def execAdvD2 (s : State) : Host.Outcome State Fault Refusal := execSubroutine (s.cur == 2) s

/-- ADV.D3 (rule R121). -/
def execAdvD3 (s : State) : Host.Outcome State Fault Refusal := execSubroutine (s.cur == 3) s

/-- ADV.COLON (rule R122). -/
def execAdvColon (s : State) : Host.Outcome State Fault Refusal := execSubroutine (s.cur == 4) s

/-- ADV.CLAMP, CUR = 5 (rule R123). -/
def execAdvClamp5 (s : State) : Host.Outcome State Fault Refusal := execSubroutine (s.cur == 5) s

/-- ADV.CLAMP, CUR = 6 or 7 (rule R123). -/
def execAdvClamp67 (cur : Cursor) (s : State) : Host.Outcome State Fault Refusal :=
  execSubroutine ((cur == 6 || cur == 7) && s.cur == cur) s

/-- A row of the digit3 decode, taken where the block uses it: the A2 of an ADV that draws position 3, with
F3 in the row and equal to f (rules R113, R114; log entry 5). -/
def execD3Row (inRow : Bool) (f : Nibble) (s : State) : Host.Outcome State Fault Refusal :=
  whenEnabled (advEnabled .a2 s && s.p == .digit3 && inRow && field s.ev 3 == f) (microA2 Config.block s)

/-- D3DEC.GEN, f = 0x0 to 0x7. -/
def execD3decGen07 (f : Nibble) (s : State) : Host.Outcome State Fault Refusal := execD3Row (f ≤ 7) f s

/-- D3DEC.8 -/
def execD3dec8 (s : State) : Host.Outcome State Fault Refusal := execD3Row true 0x8 s

/-- D3DEC.9 -/
def execD3dec9 (s : State) : Host.Outcome State Fault Refusal := execD3Row true 0x9 s

/-- D3DEC.GEN, f = 0xA or 0xB. -/
def execD3decGenAB (f : Nibble) (s : State) : Host.Outcome State Fault Refusal :=
  execD3Row (f == 0xA || f == 0xB) f s

/-- D3DEC.GEN, f = 0xC or 0xD. -/
def execD3decGenCD (f : Nibble) (s : State) : Host.Outcome State Fault Refusal :=
  execD3Row (f == 0xC || f == 0xD) f s

/-- D3DEC.GEN, f = 0xE. -/
def execD3decGenE (s : State) : Host.Outcome State Fault Refusal := execD3Row true 0xE s

/-- D3DEC.F -/
def execD3decF (s : State) : Host.Outcome State Fault Refusal := execD3Row true 0xF s

/-- ADV.A0 -/
def execAdvA0 (s : State) : Host.Outcome State Fault Refusal :=
  whenEnabled (advEnabled .idle s) (microA0 s)

/-- ADV.A1 -/
def execAdvA1 (s : State) : Host.Outcome State Fault Refusal := whenEnabled (advEnabled .a1 s) (microA1 s)

/-- ADV.A2 -/
def execAdvA2 (s : State) : Host.Outcome State Fault Refusal :=
  whenEnabled (advEnabled .a2 s) (microA2 Config.block s)

/-- ADV.A3 -/
def execAdvA3 (s : State) : Host.Outcome State Fault Refusal :=
  whenEnabled (advEnabled .a3 s) (microA3 Config.block s)

/-- ADV.A4 -/
def execAdvA4 (s : State) : Host.Outcome State Fault Refusal := whenEnabled (advEnabled .a4 s) (microA4 s)

/-- ADV.A5 -/
def execAdvA5 (s : State) : Host.Outcome State Fault Refusal := whenEnabled (advEnabled .a5 s) (microA5 s)

end Sys2Proof.Machine
end

