-- ==== Sys2Proof/Machine/Encoder.lean ====
section
/-! DEFINITION. The Display Encoder: the rows of its table, which are the cases of A3 for positions 0 to 3
(spec/40_display_encoder.md; rule R104: "used in exactly one place, micro-operation A3"). -/

namespace Sys2Proof.Machine

/-- A row of the encoder table, taken where the block uses it: the A3 of an ADV that draws a digit position,
with D in the row and equal to d (rules R100, R104, R115; log entry 5). -/
def execEncRow (inRow : Bool) (d : Nibble) (s : State) : Host.Outcome State Fault Refusal :=
  whenEnabled (advEnabled .a3 s && s.p != .colon && inRow && s.d == d) (microA3 Config.block s)

/-- ENC.0 (rule R101). -/
def execEnc0 (s : State) : Host.Outcome State Fault Refusal := execEncRow true 0 s

/-- ENC.1 (rule R101). -/
def execEnc1 (s : State) : Host.Outcome State Fault Refusal := execEncRow true 1 s

/-- ENC.2 (rule R101). -/
def execEnc2 (s : State) : Host.Outcome State Fault Refusal := execEncRow true 2 s

/-- ENC.3 (rule R101). -/
def execEnc3 (s : State) : Host.Outcome State Fault Refusal := execEncRow true 3 s

/-- ENC.4 (rule R101). -/
def execEnc4 (s : State) : Host.Outcome State Fault Refusal := execEncRow true 4 s

/-- ENC.5 (rule R101). -/
def execEnc5 (s : State) : Host.Outcome State Fault Refusal := execEncRow true 5 s

/-- ENC.6 (rule R101). -/
def execEnc6 (s : State) : Host.Outcome State Fault Refusal := execEncRow true 6 s

/-- ENC.7 (rule R101). -/
def execEnc7 (s : State) : Host.Outcome State Fault Refusal := execEncRow true 7 s

/-- ENC.8 (rule R101). -/
def execEnc8 (s : State) : Host.Outcome State Fault Refusal := execEncRow true 8 s

/-- ENC.9 (rule R101). -/
def execEnc9 (s : State) : Host.Outcome State Fault Refusal := execEncRow true 9 s

/-- ENC.OOR, d = 10 or 11 (rule R102). -/
def execEncOorAB (d : Nibble) (s : State) : Host.Outcome State Fault Refusal :=
  execEncRow (d == 10 || d == 11) d s

/-- ENC.OOR, d = 12 to 15 (rule R102). -/
def execEncOorCF (d : Nibble) (s : State) : Host.Outcome State Fault Refusal := execEncRow (12 ≤ d) d s

end Sys2Proof.Machine
end

