-- ==== Sys2Proof/Machine/Dispatch.lean ====
section
/-! DEFINITION. One arm per row of the table. -/

namespace Sys2Proof.Machine

def exec (i : Instr) (s : State) : Host.Outcome State Fault Refusal :=
  match i with
  | .tick => Sys2Proof.Machine.execTick s
  | .adv => Sys2Proof.Machine.execAdv s
  | .start => Sys2Proof.Machine.execStart s
  | .rst => Sys2Proof.Machine.execRst s
  | .stop => Sys2Proof.Machine.execStop s
  | .nop => Sys2Proof.Machine.execNop s
  | .advD0 => Sys2Proof.Machine.execAdvD0 s
  | .advD1 => Sys2Proof.Machine.execAdvD1 s
  | .advD2 => Sys2Proof.Machine.execAdvD2 s
  | .advD3 => Sys2Proof.Machine.execAdvD3 s
  | .advColon => Sys2Proof.Machine.execAdvColon s
  | .advClamp5 => Sys2Proof.Machine.execAdvClamp5 s
  | .advClamp67 cur => Sys2Proof.Machine.execAdvClamp67 cur s
  | .d3decGen07 f => Sys2Proof.Machine.execD3decGen07 f s
  | .d3dec8 => Sys2Proof.Machine.execD3dec8 s
  | .d3dec9 => Sys2Proof.Machine.execD3dec9 s
  | .d3decGenAB f => Sys2Proof.Machine.execD3decGenAB f s
  | .d3decGenCD f => Sys2Proof.Machine.execD3decGenCD f s
  | .d3decGenE => Sys2Proof.Machine.execD3decGenE s
  | .d3decF => Sys2Proof.Machine.execD3decF s
  | .enc0 => Sys2Proof.Machine.execEnc0 s
  | .enc1 => Sys2Proof.Machine.execEnc1 s
  | .enc2 => Sys2Proof.Machine.execEnc2 s
  | .enc3 => Sys2Proof.Machine.execEnc3 s
  | .enc4 => Sys2Proof.Machine.execEnc4 s
  | .enc5 => Sys2Proof.Machine.execEnc5 s
  | .enc6 => Sys2Proof.Machine.execEnc6 s
  | .enc7 => Sys2Proof.Machine.execEnc7 s
  | .enc8 => Sys2Proof.Machine.execEnc8 s
  | .enc9 => Sys2Proof.Machine.execEnc9 s
  | .encOorAB d => Sys2Proof.Machine.execEncOorAB d s
  | .encOorCF d => Sys2Proof.Machine.execEncOorCF d s
  | .tickK0 => Sys2Proof.Machine.execTickK0 s
  | .tickK1 => Sys2Proof.Machine.execTickK1 s
  | .tickK2 => Sys2Proof.Machine.execTickK2 s
  | .tickK3 => Sys2Proof.Machine.execTickK3 s
  | .tickK4 => Sys2Proof.Machine.execTickK4 s
  | .tickK5 => Sys2Proof.Machine.execTickK5 s
  | .tickK6 => Sys2Proof.Machine.execTickK6 s
  | .tickK7 => Sys2Proof.Machine.execTickK7 s
  | .tickK8 => Sys2Proof.Machine.execTickK8 s
  | .advA0 => Sys2Proof.Machine.execAdvA0 s
  | .advA1 => Sys2Proof.Machine.execAdvA1 s
  | .advA2 => Sys2Proof.Machine.execAdvA2 s
  | .advA3 => Sys2Proof.Machine.execAdvA3 s
  | .advA4 => Sys2Proof.Machine.execAdvA4 s
  | .advA5 => Sys2Proof.Machine.execAdvA5 s
  | .por => Sys2Proof.Machine.execPor s

end Sys2Proof.Machine
end

