-- ==== Sys2Proof/Machine/Sequencer.lean ====
section
/-! DEFINITION. The sequencer: the steps that are enabled in a state, the two deterministic sequencers, the
free choice, and what a turn of the agenda does (spec/60_exceptions.md section 5). -/

namespace Sys2Proof.Machine

/-- The row of the micro-operation a TICK phase selects (rule R30). -/
def tickRow : TickPhase → Instr
  | .idle => .tickK0
  | .k1 => .tickK1
  | .k2 => .tickK2
  | .k3 => .tickK3
  | .k4 => .tickK4
  | .k5 => .tickK5
  | .k6 => .tickK6
  | .k7 => .tickK7
  | .k8 => .tickK8

/-- The row of the micro-operation an ADV phase selects (rule R31). -/
def advRow : AdvPhase → Instr
  | .idle => .advA0
  | .a1 => .advA1
  | .a2 => .advA2
  | .a3 => .advA3
  | .a4 => .advA4
  | .a5 => .advA5

/-- The enabled step of class (T), at most one (rule R185). -/
def tickSteps (s : State) : List Instr := if tickEnabled s.tph s then [tickRow s.tph] else []

/-- The enabled step of class (A), at most one (rule R185). -/
def advSteps (s : State) : List Instr := if advEnabled s.aph s then [advRow s.aph] else []

/-- The step of one button, where it is enabled (class (B) of rule R185). -/
def buttonStep (c : Config) (r : Source) (i : Instr) (s : State) : List Instr :=
  if buttonEnabled c r s then [i] else []

/-- The enabled steps of the block: exactly those of rule R185. -/
def enabledSteps (c : Config) (s : State) : List Instr :=
  buttonStep c .start .start s ++ buttonStep c .rst .rst s ++ buttonStep c .stop .stop s
    ++ tickSteps s ++ advSteps s

/-- The reference sequencer: (T), then (A), then START, RST, STOP, else no step (rule R186). -/
def referenceChoice (c : Config) (s : State) : Instr :=
  (tickSteps s ++ advSteps s ++ buttonStep c .start .start s ++ buttonStep c .rst .rst s
    ++ buttonStep c .stop .stop s).headD .nop

/-- The second sequencer: RST, STOP, START, then (T), then (A), else no step (rule R187). -/
def secondChoice (c : Config) (s : State) : Instr :=
  (buttonStep c .rst .rst s ++ buttonStep c .stop .stop s ++ buttonStep c .start .start s
    ++ tickSteps s ++ advSteps s).headD .nop

/-- The block's own step: no step where none is enabled (rule R163), the enabled one where there is one,
and one of them, freely chosen, where there are several ("Which enabled step is taken is not determined",
rule R185; log entry 4). -/
def freeStep (c : Config) (s : State) : Host.Outcome State Fault Refusal :=
  match enabledSteps c s with
  | [] => exec .nop s
  | [i] => exec i s
  | i :: j :: more =>
    exec ((i :: j :: more).getD (Config.freeChoice s.choices % (more.length + 2)) i) s.chosen

/-- The step a turn names: its bits must name a row, and the row must be enabled. -/
def runRow (f : Format) (bits : Byte) (s : State) : Host.Outcome State Fault Refusal :=
  match decode f bits with
  | .instr i => exec i s
  | .rejected _ => .refused .undecodable

/-- What a turn does, once it is off the agenda. -/
def runTurn (t : Turn) (s : State) : Host.Outcome State Fault Refusal :=
  match t with
  | .row f bits => runRow f bits s
  | .req v => .next (s.raise v)
  | .step => exec (referenceChoice Config.block s) s
  | .step2 => exec (secondChoice Config.block s) s
  | .free => freeStep Config.block s

/-- One step of the machine: the first turn of the agenda, or the block's own step where the agenda is
empty (rules R57, R185; log entry 1). -/
def takeTurn (s : State) : Host.Outcome State Fault Refusal :=
  match s.agenda with
  | [] => freeStep Config.block s
  | t :: _ => runTurn t s.popTurn

/-- The register that a format's rows are decoded from is given the row's bits, and the phases and pending
bits are those in which the block decodes it (rules R76, R77, R113, R115, R185): what the fetch of a row
needs. Nothing is needed for POR. -/
def selectRow (f : Format) (bits : Byte) (s : State) : State :=
  match f with
  | .pend => { s with pend := bits.setWidth 5, tph := .idle, aph := .idle }
  | .cur => { s with cur := bits.setWidth 3, pend := 0x08, tph := .idle, aph := .idle }
  | .f3 => { s with ev := (s.ev &&& 0x0FFF) ||| (bits.setWidth 16 <<< 12), p := .digit3,
                    pend := s.pend &&& 0x0F, tph := .idle, aph := .a2 }
  | .digit => { s with d := bits.setWidth 4, p := if s.p = .colon then .digit0 else s.p,
                       pend := s.pend &&& 0x0F, tph := .idle, aph := .a3 }
  | .tph =>
    match bits.toNat with
    | 1 => { s with tph := .k1 }
    | 2 => { s with tph := .k2 }
    | 3 => { s with tph := .k3 }
    | 4 => { s with tph := .k4 }
    | 5 => { s with tph := .k5 }
    | 6 => { s with tph := .k6 }
    | 7 => { s with tph := .k7 }
    | 8 => { s with tph := .k8 }
    | _ => { s with tph := .idle, pend := s.pend ||| 0x10 }
  | .aph =>
    match bits.toNat with
    | 1 => { s with aph := .a1, tph := .idle, pend := s.pend &&& 0x0F }
    | 2 => { s with aph := .a2, tph := .idle, pend := s.pend &&& 0x0F }
    | 3 => { s with aph := .a3, tph := .idle, pend := s.pend &&& 0x0F }
    | 4 => { s with aph := .a4, tph := .idle, pend := s.pend &&& 0x0F }
    | 5 => { s with aph := .a5, tph := .idle, pend := s.pend &&& 0x0F }
    | _ => { s with aph := .idle, tph := .idle, pend := (s.pend ||| 0x08) &&& 0x0F }
  | .por => s

/-- A row presented as the next operation: its register selected, and its turn put first on the agenda. -/
def presentRow (f : Format) (bits : Byte) (s : State) : State :=
  { selectRow f bits s with agenda := .row f bits :: s.agenda }

/-- A trace word presented: its second byte names the format (log entry 2). A word whose second byte names
no format is presented as bits of PEND that no row has, so that the step refuses it. -/
def presentWord (nbits w : Nat) (s : State) : State :=
  let bits := w % 2 ^ nbits
  if 2 ^ 16 ≤ bits then presentRow .pend 0xFF s
  else match Format.ofNumber (BitVec.ofNat 8 (bits / 256)) with
    | some f => presentRow f (BitVec.ofNat 8 bits) s
    | none => presentRow .pend 0xFF s

end Sys2Proof.Machine
end

