-- ==== Sys2Proof/Machine/Step.lean ====
section
/-! DEFINITION. One step of the machine, and how a row comes to be the next thing the machine runs. -/

namespace Sys2Proof.Machine

/-- One step: a turn of the agenda, or the block's own step (rule R57). -/
def step (s : State) : Host.Outcome State Fault Refusal := takeTurn s

/-- The state whose next step runs the row of a table word (log entry 1). -/
def State.withFetchWord (s : State) (nbits w : Nat) : State := presentWord nbits w s

end Sys2Proof.Machine
end

