-- ==== Sys2Proof/Machine/Runs.lean ====
section
/-! DEFINITION. Infinite runs of the block and its environment, weak fairness, and the work a state still owes
(spec/20_memory.md rule R57, spec/60_exceptions.md rules R183, R184, R185, R189, decision D28). A run is described
here from outside: it is no part of State, and step takes one move of it at a time. -/

namespace Sys2Proof.Machine

/-- One step of a run (rules R57 and R183). -/
inductive Move where
  /-- The environment raises the requests of a vector; with the vector 0 nothing happens. -/
  | raise (v : Requests)
  /-- The power-on reset. -/
  | por
  /-- The block takes the step of a row. -/
  | take (i : Instr)
  deriving DecidableEq, Repr

/-- The move leads from s to t: a request, a reset, or an enabled step of the block (rules R183 and R185). -/
def Move.leads (m : Move) (s t : State) : Prop :=
  match m with
  | .raise v => t = s.raise v
  | .por => exec .por s = .next t
  | .take i => i ∈ enabledSteps Config.block s ∧ exec i s = .next t

/-- Weak fairness of the sequencer: "a step that stays enabled is eventually taken" (rule R184). -/
def WeaklyFair (state : Nat → State) (move : Nat → Move) : Prop :=
  ∀ (i : Instr) (n : Nat), (∀ m, n ≤ m → i ∈ enabledSteps Config.block (state m)) →
    ∃ m, n ≤ m ∧ move m = .take i

/-- A run as the spec means it: every move leads on, and the sequencer is weakly fair (rules R57 and R184). -/
structure FairRun (state : Nat → State) (move : Nat → Move) : Prop where
  leads : ∀ n, (move n).leads (state n) (state (n + 1))
  fair : WeaklyFair state move

/-- A run in which the slow source raises PEND[4] again and again, for ever, whenever that is. DESIGN CHOICE (log
entry 15): rule R184 names a slow source that raises PEND[4] again before each TICK ends; weak fairness alone also
lets an ADV be postponed for ever by one that raises it just after each TICK ends, so the condition here is the wider
one. -/
def SlowSourceNeverStops (move : Nat → Move) : Prop :=
  ∀ n, ∃ m v, n ≤ m ∧ move m = .raise v ∧ v.getLsbD (pendBit .slow) = true

/-- How many micro-operations a TICK at this phase still has at most (rule R176). -/
def TickPhase.remaining : TickPhase → Nat
  | .idle => 0
  | .k1 => 8
  | .k2 => 7
  | .k3 => 6
  | .k4 => 5
  | .k5 => 4
  | .k6 => 3
  | .k7 => 2
  | .k8 => 1

/-- How many micro-operations an ADV at this phase still has (rule R176). -/
def AdvPhase.remaining : AdvPhase → Nat
  | .idle => 0
  | .a1 => 5
  | .a2 => 4
  | .a3 => 3
  | .a4 => 2
  | .a5 => 1

/-- What a pending source still owes: at most 9 micro-operations for TICK, 6 for ADV, 1 for a button. -/
def sourceCost : Source → Nat
  | .slow => 9
  | .fast => 6
  | .start => 1
  | .rst => 1
  | .stop => 1

/-- What a source owes in a state. -/
def State.owes (s : State) (r : Source) : Nat := if s.pending r then sourceCost r else 0

/-- A bound on the micro-operations of TICK that are still to come while the slow source is silent. -/
def State.tickDebt (s : State) : Nat := s.tph.remaining + s.owes .slow

/-- A bound on the block steps that are still to come while the environment is silent (rules R176 and R213). -/
def State.work (s : State) : Nat :=
  s.tickDebt + s.aph.remaining + s.owes .fast + s.owes .start + s.owes .rst + s.owes .stop

end Sys2Proof.Machine
end

