-- ==== Sys2Proof/Machine/Display.lean ====
section
/-! DEFINITION. How the outputs are read: which SEG bit is which segment, which DSEL bit which position, and
where the positions stand on the glass (spec/30_encoding.md rules R71 and R72, spec/00_scope.md rule R9,
spec/41_digit_multiplexer.md rule R127). -/

namespace Sys2Proof.Machine

/-- The segment lines: A to G and the decimal point. -/
inductive Segment where
  | a
  | b
  | c
  | d
  | e
  | f
  | g
  | dp
  deriving DecidableEq, Repr

/-- The SEG bit of a segment (rule R71). -/
def Segment.bit : Segment → Nat
  | .a => 0
  | .b => 1
  | .c => 2
  | .d => 3
  | .e => 4
  | .f => 5
  | .g => 6
  | .dp => 7

/-- The eight segments. -/
def segments : List Segment := [.a, .b, .c, .d, .e, .f, .g, .dp]

/-- The five positions in the order ADV draws them. -/
def positions : List Position := [.digit0, .digit1, .digit2, .digit3, .colon]

/-- The positions from left to right on the glass (rule R127). -/
def glass : List Position := [.digit3, .digit2, .colon, .digit1, .digit0]

/-- The segments a pattern lights: those whose bit is 0 (rule R9). -/
def litSegments (pattern : Byte) : List Segment := segments.filter fun x => !pattern.getLsbD x.bit

/-- The positions a DSEL value enables: those whose bit is 0 (rule R9). -/
def enabledPositions (lines : Lines) : List Position :=
  positions.filter fun p => !lines.getLsbD (Position.index p)

/-- What stands on the display at this moment: the enabled positions and the segments lit on them. -/
def shown (s : State) : List Position × List Segment := (enabledPositions s.dsel, litSegments s.seg)

end Sys2Proof.Machine
end

