-- ==== Sys2Proof/Machine/Trace.lean ====
section
/-! DEFINITION. The trace notation of spec/30_encoding.md rules R80 and R81: the lines, when a line is legal,
the turns a line stands for, and the pseudo-operations. -/

namespace Sys2Proof.Machine

/-- A line of rule R80. -/
inductive Line where
  | tick
  | adv
  | start
  | rst
  | stop
  | nop
  | req (v : Requests)
  | step
  | tickK (n : Fin 9)
  | advA (n : Fin 6)
  | doStart
  | doRst
  | doStop
  | step2
  | por
  deriving DecidableEq, Repr

/-- TPH = IDLE and APH = IDLE. -/
def State.phasesIdle (s : State) : Bool := s.tph == .idle && s.aph == .idle

/-- The lines that name a whole operation are legal at an idle boundary only; where the others are legal is
said by the rule of the step they name (rule R80). DESIGN CHOICE (log entry 13): PEND is not looked at, so such a
line is legal while other requests are pending, though an idle block in the glossary's sense has PEND = 0. -/
def Line.legal (s : State) : Line → Bool
  | .tick | .adv | .start | .rst | .stop | .nop => s.phasesIdle
  | .req _ | .step | .step2 | .por => true
  | .tickK _ | .advA _ | .doStart | .doRst | .doStop => true

/-- The turns of a line: a line that names a whole operation requests it and has it served at once. -/
def Line.turns : Line → List Turn
  | .tick => [.req 0x10, .row .pend 0x10]
  | .adv => [.req 0x08, .row .pend 0x08]
  | .start => [.req 0x04, .row .pend 0x04]
  | .rst => [.req 0x02, .row .pend 0x02]
  | .stop => [.req 0x01, .row .pend 0x01]
  | .nop => [.row .pend 0x00]
  | .req v => [.req v]
  | .step => [.step]
  | .tickK n => [.row .tph (BitVec.ofNat 8 n.val)]
  | .advA n => [.row .aph (BitVec.ofNat 8 n.val)]
  | .doStart => [.row .pend 0x04]
  | .doRst => [.row .pend 0x02]
  | .doStop => [.row .pend 0x01]
  | .step2 => [.step2]
  | .por => [.row .por 0]

/-- Turns one after the other, up to the first that is refused. -/
def runTurns : List Turn → State → Host.Outcome State Fault Refusal
  | [], s => .next s
  | t :: ts, s =>
    match runTurn t s with
    | .next s' => runTurns ts s'
    | .fault r => .fault r
    | .refused r => .refused r

/-- A line performed on a state; an illegal line is no step of the block. -/
def runLine (l : Line) (s : State) : Host.Outcome State Fault Refusal :=
  if l.legal s then runTurns l.turns s else .refused .notEnabled

/-- Lines one after the other. -/
def runLines : List Line → State → Host.Outcome State Fault Refusal
  | [], s => .next s
  | l :: ls, s =>
    match runLine l s with
    | .next s' => runLines ls s'
    | .fault r => .fault r
    | .refused r => .refused r

/-- TICK*n (rule R81). -/
def tickTimes (n : Nat) : List Line := List.replicate n .tick

/-- ADV*n (rule R81). -/
def advTimes (n : Nat) : List Line := List.replicate n .adv

/-- FRAME (rule R81). -/
def frame : List Line := advTimes 5

/-- RUNTO v, with the stated number of repetitions as its bound (rule R81). DESIGN CHOICE (log entry 14): the
condition is tested before the first TICK, so where EV = v or RUN = 0 holds at the start no TICK is performed. -/
def runTo (v : EvWord) : Nat → State → Host.Outcome State Fault Refusal
  | 0, s => .next s
  | n + 1, s =>
    if s.ev == v || !s.run then .next s
    else match runLine .tick s with
      | .next s' => runTo v n s'
      | .fault r => .fault r
      | .refused r => .refused r

end Sys2Proof.Machine
end

