-- ==== Sys2Proof/Safety.lean ====
section
/-! DEFINITION. The terms claims are stated in: the invariants of a run, reachable states, quiescence, and the
whole-operation functions the spec gives beside the micro-operations. A safe run is one whose states meet
State.Inv; no step of the block ends a run (spec/60_exceptions.md rules R170 and R189). -/

namespace Sys2Proof.Machine

/-- Field Fk of EV as a number (rule R21). -/
def State.f (s : State) (k : Nat) : Nat := (field s.ev k).toNat

/-- A TICK is in progress at K3 or K4, between the hundredths step and the seconds carry. -/
def State.stepping (s : State) : Prop := s.tph = .k3 ∨ s.tph = .k4

/-- A TICK is in progress at K5 or K6, between the seconds carry and the minutes carry. -/
def State.carrying (s : State) : Prop := s.tph = .k5 ∨ s.tph = .k6

/-- How SUB and SEC stand to the fields (the closed form of spec/95_test_vectors.md section 3): in step, or
ahead of fields that a RST has cleared. -/
def State.related (s : State) : Prop :=
  (s.sub.toNat = s.f 1 ∧ s.sec.toNat = s.f 2) ∨
  (s.f 3 = 0 ∧ s.f 2 = 0 ∧ s.f 1 < s.sub.toNat) ∨
  (s.f 3 = 0 ∧ s.sub.toNat = s.f 1 ∧ s.f 2 < s.sec.toNat)

/-- The invariant of the counter: the field ranges of rules R22, R25, R26, R30 and R144, with what they rest
on. A field or a counter is 10 only between the step that makes it 10 and the carry that clears it. -/
structure State.CounterInv (s : State) : Prop where
  f0_zero : s.f 0 = 0
  f1_range : s.f 1 ≤ 9 ∨ (s.f 1 = 10 ∧ s.stepping)
  f2_range : s.f 2 ≤ 9 ∨ (s.f 2 = 10 ∧ s.carrying)
  f3_range : s.f 3 ≤ 9
  sub_range : s.sub.toNat ≤ 9 ∨ (s.sub.toNat = 10 ∧ s.stepping)
  sec_range : s.sec.toNat ≤ 9 ∨ (s.sec.toNat = 10 ∧ s.carrying ∧ s.c1 = true ∧ s.f 3 ≤ 8)
  relation : s.related
  sub_stepped : s.stepping → 1 ≤ s.sub.toNat ∧ s.ev ≠ 0x99A0
  not_terminal : s.tph ≠ .idle → s.tph ≠ .k1 → s.tph ≠ .k3 → s.ev ≠ 0x9990
  c1_phase : s.c1 = true → (s.carrying ∨ s.tph = .k7 ∨ s.tph = .k8) ∧ s.sub = 0
  c2_phase : s.c2 = true → (s.tph = .k7 ∨ s.tph = .k8) ∧ s.c1 = true ∧ s.sec = 0

/-- The invariant of the display: the ranges of rules R24 and R28, the digits ENC is given (rule R102), and
the blanking of rule R125. -/
structure State.DisplayInv (s : State) : Prop where
  cur_range : s.cur.toNat ≤ 4
  digit_range : s.d.toNat ≤ 9
  one_line : s.dsel = 0x1F ∨ ∃ p, s.dsel = dselPat p
  blanked : s.aph = .a2 ∨ s.aph = .a3 ∨ s.aph = .a4 → s.dsel = 0x1F
  latched : s.aph ≠ .idle → s.cur.toNat = Position.index s.p

/-- The invariant of a run. -/
structure State.Inv (s : State) : Prop where
  counter : s.CounterInv
  display : s.DisplayInv

/-- The states of all runs: from POR, with any turns to come (rules R57, R185, R183). -/
inductive Reachable : State → Prop where
  | reset (turns : List Turn) : Reachable { State.reset with agenda := turns }
  | step {s t : State} : Reachable s → step s = .next t → Reachable t

/-- Only the environment can move (rule R189). -/
def State.quiescent (s : State) : Prop := s.tph = .idle ∧ s.aph = .idle ∧ s.pend = 0

/-- EV is at TERMINAL, and a TICK in progress, if any, is at a terminal test that will end it (rule R141). -/
def State.stalled (s : State) : Prop :=
  s.ev = 0x9990 ∧ (s.tph = .idle ∨ s.tph = .k1 ∨ s.tph = .k3)

/-- What TICK and the buttons read and write (rule R58). -/
def State.counterPart (s : State) : EvWord × Bool × Nibble × Nibble × TickPhase × Bool × Bool :=
  (s.ev, s.run, s.sub, s.sec, s.tph, s.c1, s.c2)

/-- What only ADV and POR write (rule R34). -/
def State.displayPart (s : State) : Cursor × Byte × Lines × AdvPhase × Position × Nibble :=
  (s.cur, s.seg, s.dsel, s.aph, s.p, s.d)

/-- tick(s) on (EV, RUN, SUB, SEC), written as rule R140 writes it, with its literal constants. -/
def tickOfRule140 (ev : EvWord) (run : Bool) (sub sec : Nibble) : EvWord × Bool × Nibble × Nibble :=
  if run = false then (ev, run, sub, sec)
  else if ev = 0x9990 then (ev, false, sub, sec)
  else
    let ev := ev + 0x0010
    let sub := sub + 1
    if ev = 0x9990 then (ev, false, sub, sec)
    else
      let carry1 := sub = 10
      let ev := if carry1 then (ev + 0x0100) &&& 0xFF0F else ev
      let sub := if carry1 then 0 else sub
      let sec := if carry1 then sec + 1 else sec
      if carry1 ∧ ev = 0x9990 then (ev, false, sub, sec)
      else
        let carry2 := sec = 10
        let ev := if carry2 then (ev + 0x1000) &&& 0xF0FF else ev
        let sec := if carry2 then 0 else sec
        if carry2 ∧ ev = 0x9990 then (ev, false, sub, sec)
        else
          let ev := if ¬carry1 ∧ ¬carry2 then ev &&& 0xFFF0 else ev
          (ev, run, sub, sec)

/-- The first n micro-operations of a TICK, K0 on, with nothing between. -/
def firstOfTick (c : Config) : Nat → State → State
  | 0, s => s
  | n + 1, s => microTick c (firstOfTick c n s)

/-- A TICK in which RST lands after the first n micro-operations (rule R204): they run, RST is taken, and the
TICK then goes on to its end; where none has run yet, K0 follows. -/
def tickWithRst (c : Config) (n : Nat) (s : State) : State :=
  let landed := microRst c (firstOfTick c n s)
  if n = 0 then wholeTick c landed else restOfTick c 8 landed

/-- ENC(d) as rules R100 to R102 give it: the patterns of rule R101, and for d above 9 the draw numbered n. -/
def encOfRule100 (d : Nibble) (n : Nat) : Byte :=
  match d.toNat with
  | 0 => 0xC0
  | 1 => 0xF9
  | 2 => 0xA4
  | 3 => 0xB0
  | 4 => 0x99
  | 5 => 0x92
  | 6 => 0x82
  | 7 => 0xF8
  | 8 => 0x80
  | 9 => 0x90
  | _ => Config.any8 n

/-- The number of the next draw after ENC(d): a draw is made for d above 9 (rule R102). -/
def drawsAfter (d : Nibble) (n : Nat) : Nat := if 9 < d.toNat then n + 1 else n

/-- D3DEC(f) as rule R114 writes it. -/
def d3decOfRule114 (f : Nibble) : Nibble := if f = 0x8 then 8 else if f = 0x9 then 9 else if f = 0xF then 9 else f

/-- A state in which the block decodes CUR and runs an ADV from A0 on (the precondition of rule R111). -/
def State.atA0 (s : State) : Prop :=
  s.tph = .idle ∧ s.pending .slow = false ∧ s.aph = .idle ∧ s.pending .fast = true

/-- A state in which the micro-operation of ADV that the phase selects is next (rule R185 (A), APH = An). -/
def State.atAdv (s : State) (ph : AdvPhase) : Prop :=
  s.tph = .idle ∧ s.pending .slow = false ∧ s.aph = ph

/-- Neither phase in progress and neither timer pending: where a whole operation is requested (rule R80). -/
def State.atRest (s : State) : Prop :=
  s.tph = .idle ∧ s.aph = .idle ∧ s.c1 = false ∧ s.c2 = false ∧
    s.pending .slow = false ∧ s.pending .fast = false

/-- The rows of TICK: the whole and its micro-operations. -/
def tickRows : List Instr :=
  [.tick, .tickK0, .tickK1, .tickK2, .tickK3, .tickK4, .tickK5, .tickK6, .tickK7, .tickK8]

/-- The micro-operations of ADV. -/
def advMicroRows : List Instr := [.advA0, .advA1, .advA2, .advA3, .advA4, .advA5]

/-- The rows that are one step of rule R185: the buttons and the micro-operations. -/
def stepRows : List Instr := [.start, .rst, .stop] ++ tickRows.tail ++ advMicroRows

/-- The rows that run an ADV from A0 to A5. -/
def wholeAdvRows : List Instr :=
  [.adv, .advD0, .advD1, .advD2, .advD3, .advColon, .advClamp5, .advClamp67 6, .advClamp67 7]

/-- The packed value whose fields are the decimal digits of n, with F0 = 0 (rule R143). -/
def packed (n : Nat) : EvWord := BitVec.ofNat 16 (n / 100 * 4096 + n / 10 % 10 * 256 + n % 10 * 16)

end Sys2Proof.Machine
end

