-- ==== Sys2Proof/Certificates/Slice0/Obligations.lean ====
section
/-! DEFINITION. What is claimed of the model. Where a docstring says "decision D<n>" the clause rests on a
choice the spec marks as its own (spec/92_eei_decisions.md); the model's own fields (draws, choices, agenda)
are log entries 1, 3 and 4. -/

open Sys2Proof Sys2Proof.Machine

/-! ## Reset and decode -/

/-- Rules R35 and R200 (decision D22): POR, in every state, gives every register its reset value in one step,
and the block then takes no step. -/
def Obligations.PowerOnResetGivesEveryRegisterItsValue : Prop :=
  ∀ s : State, ∃ t : State, exec .por s = .next t ∧
    (t.ev = 0x0000 ∧ t.run = false ∧ t.sub = 0 ∧ t.sec = 0 ∧ t.cur = 0 ∧ t.seg = 0xFF ∧ t.dsel = 0x1F ∧
      t.pend = 0b00000 ∧ t.tph = .idle ∧ t.c1 = false ∧ t.c2 = false ∧ t.aph = .idle ∧ t.p = .digit0 ∧ t.d = 0) ∧
    t.draws = s.draws ∧ t.choices = s.choices ∧ t.agenda = s.agenda ∧ freeStep Config.block t = .next t

/-- The reset state meets the invariant of a run. -/
def Obligations.ResetStateMeetsTheRunInvariant : Prop := State.reset.Inv

/-- Decoding what the encoder writes gives the row back, with its operand, as format and bits and as the two
bytes of a trace word (the second byte is log entry 2). -/
def Obligations.DecodeOfEncodeIsTheRow : Prop :=
  ∀ i : Instr, i.wf = true →
    decode (encode i).1 (encode i).2 = .instr i ∧
    decodeBytes (encodeBytes i).1 (encodeBytes i).2 = .instr i

/-- The decoder is the table's mask and match: what it reads is a well-formed row that the bits fit, and bits
that fit a row are read as that row. -/
def Obligations.DecodeIsTheMaskAndMatchOfTheTable : Prop :=
  (∀ (f : Format) (b : Byte) (i : Instr), decode f b = .instr i → i.wf = true ∧ i.row.fits f b = true) ∧
  (∀ (f : Format) (b : Byte) (i : Instr), i.wf = true → i.row.fits f b = true →
    ∃ j : Instr, decode f b = .instr j ∧ j.row = i.row)

/-- Rule R76 (decision D19): the operation of each of the 32 request vectors, and the micro-operation with
which the reference sequencer starts it at an idle boundary. -/
def Obligations.RequestVectorSelectsTheOperation : Prop :=
  (∀ v : Requests, decode .pend (v.setWidth 8) = .instr
    (if 16 ≤ v.toNat then .tick else if 8 ≤ v.toNat then .adv else if 4 ≤ v.toNat then .start
      else if 2 ≤ v.toNat then .rst else if v.toNat = 1 then .stop else .nop)) ∧
  (∀ s : State, s.tph = .idle → s.aph = .idle →
    referenceChoice Config.block s =
      if 16 ≤ s.pend.toNat then .tickK0 else if 8 ≤ s.pend.toNat then .advA0
      else if 4 ≤ s.pend.toNat then .start else if 2 ≤ s.pend.toNat then .rst
      else if s.pend.toNat = 1 then .stop else .nop)

/-- Words written out from the spec's tables decode to their rows, and words no row has are rejected. -/
def Obligations.WrittenOutWordsDecode : Prop :=
  decode .pend 0b00010000 = .instr .tick ∧ decode .pend 0b00011111 = .instr .tick ∧
  decode .pend 0b00001101 = .instr .adv ∧ decode .pend 0b00000110 = .instr .start ∧
  decode .pend 0b00000011 = .instr .rst ∧ decode .pend 0b00000001 = .instr .stop ∧
  decode .pend 0b00000000 = .instr .nop ∧ decode .pend 0b00100000 = .rejected .unusedBits ∧
  decode .cur 0b011 = .instr .advD3 ∧ decode .cur 0b111 = .instr (.advClamp67 7) ∧
  decode .f3 0b1000 = .instr .d3dec8 ∧ decode .f3 0b1011 = .instr (.d3decGenAB 0xB) ∧
  decode .f3 0b1111 = .instr .d3decF ∧ decode .digit 0b0111 = .instr .enc7 ∧
  decode .digit 0b1110 = .instr (.encOorCF 14) ∧ decode .tph 0b0100 = .instr .tickK4 ∧
  decode .tph 0b1001 = .rejected .noSuchPhase ∧ decode .aph 0b101 = .instr .advA5 ∧
  decode .por 0b0 = .instr .por ∧ decode .por 0b1 = .rejected .resetInactive

/-! ## TICK -/

/-- Rule R131 (decision D9): K0 clears PEND[4] and reads RUN. -/
def Obligations.GateEndsTheTickUnlessRunning : Prop :=
  ∀ s : State, s.tph = .idle → s.pending .slow = true →
    exec .tickK0 s = .next
      (if s.run = true then { s with pend := s.pend &&& 0x0F, tph := .k1 }
       else { s with pend := s.pend &&& 0x0F, tph := .idle, c1 := false, c2 := false })

/-- Rules R132 and R134: the terminal tests K1 and K3, and the TICK at the terminal value and the one that
reaches it. -/
def Obligations.TerminalTestsAroundTheStepAutoStop : Prop :=
  (∀ s : State, s.tph = .k1 →
    exec .tickK1 s = .next
      (if s.ev = 0x9990 then { s with run := false, tph := .idle, c1 := false, c2 := false }
       else { s with tph := .k2 })) ∧
  (∀ s : State, s.tph = .k3 →
    exec .tickK3 s = .next
      (if s.ev = 0x9990 then { s with run := false, tph := .idle, c1 := false, c2 := false }
       else { s with tph := .k4 })) ∧
  (∀ s : State, s.tph = .idle → s.pending .slow = true → s.run = true → s.ev = 0x9990 →
    exec .tick s = .next
      { s with pend := s.pend &&& 0x0F, run := false, tph := .idle, c1 := false, c2 := false }) ∧
  (∀ s : State, s.tph = .idle → s.pending .slow = true → s.run = true →
    s.ev = 0x9980 → s.sub = 8 → s.sec = 9 →
    exec .tick s = .next
      { s with pend := s.pend &&& 0x0F, ev := 0x9990, sub := 9, run := false, tph := .idle,
               c1 := false, c2 := false })

/-- Rules R136 and R138 (decision D9): K5 and K7 test for TERMINAL only where the carry just before was
taken. -/
def Obligations.TerminalTestsAfterCarriesAutoStop : Prop :=
  (∀ s : State, s.tph = .k5 →
    exec .tickK5 s = .next
      (if s.c1 = true ∧ s.ev = 0x9990 then { s with run := false, tph := .idle, c1 := false, c2 := false }
       else { s with tph := .k6 })) ∧
  (∀ s : State, s.tph = .k7 →
    exec .tickK7 s = .next
      (if s.c2 = true ∧ s.ev = 0x9990 then { s with run := false, tph := .idle, c1 := false, c2 := false }
       else { s with tph := .k8 }))

/-- Rule R133 (decisions D6, D8): K2 adds one unit of F1 in binary and counts the tick. -/
def Obligations.HundredthsStepAddsInBinary : Prop :=
  ∀ s : State, s.tph = .k2 →
    exec .tickK2 s = .next { s with ev := s.ev + 0x0010, sub := s.sub + 1, tph := .k3 }

/-- Rule R135 (decisions D6 to D8): K4 carries into F2 where SUB is exactly 10, and otherwise changes TPH
alone. -/
def Obligations.SecondsCarryAtExactlyTenSubTicks : Prop :=
  ∀ s : State, s.tph = .k4 →
    (s.sub = 10 → exec .tickK4 s = .next
      { s with ev := (s.ev + 0x0100) &&& 0xFF0F, sub := 0, sec := s.sec + 1, c1 := true, tph := .k5 }) ∧
    (s.sub ≠ 10 → exec .tickK4 s = .next { s with tph := .k5 })

/-- Rule R137 (decisions D6, D7, D9): K6 carries into F3 where SEC is exactly 10, whether or not K4 took its
carry, and otherwise changes TPH alone. -/
def Obligations.MinutesCarryAtExactlyTenCarries : Prop :=
  ∀ s : State, s.tph = .k6 →
    (s.sec = 10 → exec .tickK6 s = .next
      { s with ev := (s.ev + 0x1000) &&& 0xF0FF, sec := 0, c2 := true, tph := .k7 }) ∧
    (s.sec ≠ 10 → exec .tickK6 s = .next { s with tph := .k7 })

/-- Rule R139 (decision D7): K8 clears F0 where neither carry was taken, and ends the TICK. -/
def Obligations.SafetyNetOnTheNonCarryPath : Prop :=
  ∀ s : State, s.tph = .k8 →
    exec .tickK8 s = .next
      { s with ev := if s.c1 = false ∧ s.c2 = false then s.ev &&& 0xFFF0 else s.ev,
               tph := .idle, c1 := false, c2 := false }

/-- The uninterrupted TICK is the function tick of rule R140, and changes nothing else but PEND[4]. -/
def Obligations.WholeTickIsTheFunctionOfTheSpec : Prop :=
  ∀ s : State, s.tph = .idle → s.c1 = false → s.c2 = false → s.pending .slow = true →
    exec .tick s = .next
      { s with
        pend := s.pend &&& 0x0F
        ev := (tickOfRule140 s.ev s.run s.sub s.sec).1
        run := (tickOfRule140 s.ev s.run s.sub s.sec).2.1
        sub := (tickOfRule140 s.ev s.run s.sub s.sec).2.2.1
        sec := (tickOfRule140 s.ev s.run s.sub s.sec).2.2.2 }

/-- The frame of TICK and its micro-operations (rule R147): the display's registers, the other PEND bits and
the model's own fields are unchanged, RUN is never set, and a whole TICK ends at IDLE. -/
def Obligations.TickRowsLeaveTheDisplayAlone : Prop :=
  ∀ (i : Instr) (s t : State), i ∈ tickRows → exec i s = .next t →
    t.displayPart = s.displayPart ∧
    t.pend = (if i = .tick ∨ i = .tickK0 then s.pend &&& 0x0F else s.pend) ∧
    t.draws = s.draws ∧ t.choices = s.choices ∧ t.agenda = s.agenda ∧
    (s.run = false → t.run = false) ∧
    (t.tph = .idle → t.c1 = false ∧ t.c2 = false) ∧ (i = .tick → t.tph = .idle)

/-- Carry cadence (rule R143): from (0, 1, 0, 0) with TICKs only, after n TICKs the fields are the decimal
digits of n, SUB = F1 and SEC = F2, up to the 999th, which auto-stops at TERMINAL. That the lines TICK are also
legal while buttons are pending is the model's choice (log entry 13). -/
def Obligations.TicksCountInDecimalUpToTheTerminalValue : Prop :=
  ∀ (n : Nat) (s : State), s.atRest → s.ev = 0 → s.run = true → s.sub = 0 → s.sec = 0 →
    runLines (tickTimes n) s = .next
      { s with
        ev := packed (min n 999)
        run := decide (n < 999)
        sub := BitVec.ofNat 4 (min n 999 % 10)
        sec := BitVec.ofNat 4 (min n 999 / 10 % 10) }

/-- Saturation (rule R141): once EV is at TERMINAL no row but RST and POR moves it. -/
def Obligations.TerminalValueHoldsUntilReset : Prop :=
  ∀ (i : Instr) (s t : State), s.stalled → i ≠ .rst → i ≠ .por → exec i s = .next t → t.stalled

/-- How many micro-operations a TICK takes with nothing between (rule R211, decision D24): 1 with RUN = 0, 2
at TERMINAL, 4 where the step reaches TERMINAL, 9 otherwise. -/
def Obligations.TickTakesOneTwoFourOrNineMicroOperations : Prop :=
  ∀ s : State, s.tph = .idle → s.c1 = false → s.c2 = false →
    ∃ m : Nat, m = (if s.run = false then 1 else if s.ev = 0x9990 then 2
        else if s.ev + 0x0010 = 0x9990 then 4 else 9) ∧
      (firstOfTick Config.block m s).tph = .idle ∧
      ∀ n : Nat, 0 < n → n < m → (firstOfTick Config.block n s).tph ≠ .idle

/-- An operation in progress is never stuck (rule R176): each micro-operation of a TICK or an ADV in progress
completes and ends the operation or leads to the next one, and the last one ends it. -/
def Obligations.OperationsInProgressAdvanceAndEnd : Prop :=
  (∀ s : State, s.tph ≠ .idle → ∃ t : State, exec (tickRow s.tph) s = .next t ∧
    (t.tph = .idle ∨ (s.tph = .k1 ∧ t.tph = .k2) ∨ (s.tph = .k2 ∧ t.tph = .k3) ∨ (s.tph = .k3 ∧ t.tph = .k4) ∨
      (s.tph = .k4 ∧ t.tph = .k5) ∨ (s.tph = .k5 ∧ t.tph = .k6) ∨ (s.tph = .k6 ∧ t.tph = .k7) ∨
      (s.tph = .k7 ∧ t.tph = .k8))) ∧
  (∀ s : State, s.tph = .idle → s.pending .slow = false → s.aph ≠ .idle →
    ∃ t : State, exec (advRow s.aph) s = .next t ∧
    ((s.aph = .a1 ∧ t.aph = .a2) ∨ (s.aph = .a2 ∧ t.aph = .a3) ∨ (s.aph = .a3 ∧ t.aph = .a4) ∨
      (s.aph = .a4 ∧ t.aph = .a5) ∨ (s.aph = .a5 ∧ t.aph = .idle)))

/-! ## ADV -/

/-- Rule R111 (decision D11): A0 latches the position CUR names and clamps a CUR above 4 to 0. -/
def Obligations.DispatchLatchesThePositionAndClamps : Prop :=
  ∀ s : State, s.atA0 →
    (s.cur.toNat ≤ 4 → ∃ p : Position, Position.index p = s.cur.toNat ∧
      exec .advA0 s = .next { s with pend := s.pend &&& 0x17, p := p, aph := .a1 }) ∧
    (4 < s.cur.toNat →
      exec .advA0 s = .next { s with pend := s.pend &&& 0x17, p := .digit0, cur := 0, aph := .a1 })

/-- Rule R112: A1 disables all digit-select lines. -/
def Obligations.BlankingDisablesEveryLine : Prop :=
  ∀ s : State, s.atAdv .a1 → exec .advA1 s = .next { s with dsel := 0x1F, aph := .a2 }

/-- Rule R113 (decision D12): A2 latches the field of the position, through D3DEC at position 3, and leaves D
for the colon. -/
def Obligations.ExtractLatchesTheFieldOfThePosition : Prop :=
  ∀ s : State, s.atAdv .a2 →
    exec .advA2 s = .next
      { s with
        d := (match s.p with
          | .digit0 => s.ev.extractLsb' 0 4
          | .digit1 => s.ev.extractLsb' 4 4
          | .digit2 => s.ev.extractLsb' 8 4
          | .digit3 => d3decOfRule114 (s.ev.extractLsb' 12 4)
          | .colon => s.d)
        aph := .a3 }

/-- Rule R115: A3 writes the colon pattern or ENC(D), and is the only write of SEG in an ADV. An index above
9 gives a free draw (log entry 3). -/
def Obligations.SegmentsAreWrittenOnceFromTheEncoder : Prop :=
  (∀ s : State, s.atAdv .a3 →
    exec .advA3 s = .next
      (if s.p = .colon then { s with seg := Config.block.colonPat, aph := .a4 }
       else { s with seg := encOfRule100 s.d s.draws, draws := drawsAfter s.d s.draws, aph := .a4 })) ∧
  (∀ (i : Instr) (s t : State), i ∈ advMicroRows → i ≠ .advA3 → exec i s = .next t → t.seg = s.seg)

/-- Rule R116: A4 enables exactly the line of the position. -/
def Obligations.EnableSelectsExactlyThePosition : Prop :=
  ∀ s : State, s.atAdv .a4 →
    exec .advA4 s = .next
      { s with
        dsel := (match s.p with
          | .digit0 => 0x1E
          | .digit1 => 0x1D
          | .digit2 => 0x1B
          | .digit3 => 0x17
          | .colon => 0x0F)
        aph := .a5 } ∧
    ∀ t : State, exec .advA4 s = .next t → enabledPositions t.dsel = [s.p]

/-- Rule R117 (decision D11): A5 writes the position after this one, and 0 after the colon. -/
def Obligations.CursorAdvancesAndWrapsAfterTheColon : Prop :=
  ∀ s : State, s.atAdv .a5 → ∃ t : State,
    exec .advA5 s = .next t ∧ t = { s with cur := t.cur, aph := .idle } ∧
    t.cur.toNat = (if s.p = .colon then 0 else Position.index s.p + 1)

/-- Rules R118 to R121 (decision D12): the four digit sub-routines as wholes, passing through a blank
display. -/
def Obligations.DigitSubroutinesShowTheirField : Prop :=
  (∀ s : State, s.atA0 → s.cur = 0 →
    exec .advD0 s = .next { s with
      pend := s.pend &&& 0x17, p := .digit0, d := field s.ev 0, seg := encOfRule100 (field s.ev 0) s.draws,
      draws := drawsAfter (field s.ev 0) s.draws, dsel := 0x1E, cur := 1, aph := .idle }) ∧
  (∀ s : State, s.atA0 → s.cur = 1 →
    exec .advD1 s = .next { s with
      pend := s.pend &&& 0x17, p := .digit1, d := field s.ev 1, seg := encOfRule100 (field s.ev 1) s.draws,
      draws := drawsAfter (field s.ev 1) s.draws, dsel := 0x1D, cur := 2, aph := .idle }) ∧
  (∀ s : State, s.atA0 → s.cur = 2 →
    exec .advD2 s = .next { s with
      pend := s.pend &&& 0x17, p := .digit2, d := field s.ev 2, seg := encOfRule100 (field s.ev 2) s.draws,
      draws := drawsAfter (field s.ev 2) s.draws, dsel := 0x1B, cur := 3, aph := .idle }) ∧
  (∀ s : State, s.atA0 → s.cur = 3 →
    exec .advD3 s = .next { s with
      pend := s.pend &&& 0x17, p := .digit3, d := d3decOfRule114 (field s.ev 3),
      seg := encOfRule100 (d3decOfRule114 (field s.ev 3)) s.draws,
      draws := drawsAfter (d3decOfRule114 (field s.ev 3)) s.draws, dsel := 0x17, cur := 4, aph := .idle }) ∧
  (∀ s : State, (microA1 (microA0 s)).dsel = 0x1F)

/-- Rules R122 and R123 (decisions D11, D15): the colon sub-routine, which reads no field, and the clamp, which
draws position 0. -/
def Obligations.ColonAndClampSubroutines : Prop :=
  (∀ s : State, s.atA0 → s.cur = 4 →
    exec .advColon s = .next { s with
      pend := s.pend &&& 0x17, p := .colon, seg := Config.block.colonPat, dsel := 0x0F, cur := 0,
      aph := .idle }) ∧
  (∀ s : State, s.atA0 → s.cur = 5 →
    exec .advClamp5 s = .next { s with
      pend := s.pend &&& 0x17, p := .digit0, d := field s.ev 0, seg := encOfRule100 (field s.ev 0) s.draws,
      draws := drawsAfter (field s.ev 0) s.draws, dsel := 0x1E, cur := 1, aph := .idle }) ∧
  (∀ (c : Cursor) (s : State), s.atA0 → c = 6 ∨ c = 7 → s.cur = c →
    exec (.advClamp67 c) s = .next { s with
      pend := s.pend &&& 0x17, p := .digit0, d := field s.ev 0, seg := encOfRule100 (field s.ev 0) s.draws,
      draws := drawsAfter (field s.ev 0) s.draws, dsel := 0x1E, cur := 1, aph := .idle })

/-- ADV runs the sub-routine the decode of CUR names (rule R77), completes, and is the six micro-operations A0
to A5 one after the other (rule R110). -/
def Obligations.WholeAdvRunsTheSubroutineOfTheCursor : Prop :=
  (∀ s : State, s.atA0 → ∃ (i : Instr) (t : State),
    decode .cur (s.cur.setWidth 8) = .instr i ∧ exec i s = .next t ∧ exec .adv s = .next t) ∧
  (∀ s t0 t1 t2 t3 t4 t5 : State, exec .advA0 s = .next t0 → exec .advA1 t0 = .next t1 →
    exec .advA2 t1 = .next t2 → exec .advA3 t2 = .next t3 → exec .advA4 t3 = .next t4 →
    exec .advA5 t4 = .next t5 → exec .adv s = .next t5)

/-- The rows of the digit3 decode (rule R114, decision D13), taken at the A2 of position 3 (log entry 5). -/
def Obligations.Digit3DecodeRowsLatchTheirDigit : Prop :=
  ∀ s : State, s.atAdv .a2 → s.p = .digit3 →
    (∀ f : Nibble, f ≤ 7 → field s.ev 3 = f →
      exec (.d3decGen07 f) s = .next { s with d := f, aph := .a3 }) ∧
    (field s.ev 3 = 0x8 → exec .d3dec8 s = .next { s with d := 8, aph := .a3 }) ∧
    (field s.ev 3 = 0x9 → exec .d3dec9 s = .next { s with d := 9, aph := .a3 }) ∧
    (∀ f : Nibble, f = 0xA ∨ f = 0xB → field s.ev 3 = f →
      exec (.d3decGenAB f) s = .next { s with d := f, aph := .a3 }) ∧
    (∀ f : Nibble, f = 0xC ∨ f = 0xD → field s.ev 3 = f →
      exec (.d3decGenCD f) s = .next { s with d := f, aph := .a3 }) ∧
    (field s.ev 3 = 0xE → exec .d3decGenE s = .next { s with d := 0xE, aph := .a3 }) ∧
    (field s.ev 3 = 0xF → exec .d3decF s = .next { s with d := 9, aph := .a3 })

/-- The rows of the encoder for the digits 0 to 9 (rules R100 and R101, decision D14), taken at the A3 of a
digit position (log entry 5). -/
def Obligations.EncoderRowsWriteTheirPattern : Prop :=
  ∀ s : State, s.atAdv .a3 → s.p ≠ .colon →
    (s.d = 0 → exec .enc0 s = .next { s with seg := 0xC0, aph := .a4 }) ∧
    (s.d = 1 → exec .enc1 s = .next { s with seg := 0xF9, aph := .a4 }) ∧
    (s.d = 2 → exec .enc2 s = .next { s with seg := 0xA4, aph := .a4 }) ∧
    (s.d = 3 → exec .enc3 s = .next { s with seg := 0xB0, aph := .a4 }) ∧
    (s.d = 4 → exec .enc4 s = .next { s with seg := 0x99, aph := .a4 }) ∧
    (s.d = 5 → exec .enc5 s = .next { s with seg := 0x92, aph := .a4 }) ∧
    (s.d = 6 → exec .enc6 s = .next { s with seg := 0x82, aph := .a4 }) ∧
    (s.d = 7 → exec .enc7 s = .next { s with seg := 0xF8, aph := .a4 }) ∧
    (s.d = 8 → exec .enc8 s = .next { s with seg := 0x80, aph := .a4 }) ∧
    (s.d = 9 → exec .enc9 s = .next { s with seg := 0x90, aph := .a4 })

/-- The rows of the encoder for an index above 9 (rule R102, decision D17): SEG takes some value, a free draw,
the draw's number goes up so that the next one is fresh, and all else is as for a digit. That such a row is the A3
that uses it is the model's choice (log entry 5), as is the form of the draw (log entry 3). -/
def Obligations.EncoderOutOfRangeDrawsAFreshValue : Prop :=
  ∀ (d : Nibble) (s : State), s.atAdv .a3 → s.p ≠ .colon → s.d = d →
    (d = 10 ∨ d = 11 →
      exec (.encOorAB d) s = .next { s with seg := Config.any8 s.draws, draws := s.draws + 1, aph := .a4 }) ∧
    (12 ≤ d →
      exec (.encOorCF d) s = .next { s with seg := Config.any8 s.draws, draws := s.draws + 1, aph := .a4 })

/-- Rule R126: ADV and its micro-operations write only PEND[3], CUR, SEG, DSEL, APH, P and D, and complete
whatever RUN and EV are. -/
def Obligations.AdvWritesOnlyTheDisplay : Prop :=
  (∀ (i : Instr) (s t : State), i ∈ wholeAdvRows ++ advMicroRows → exec i s = .next t →
    t.counterPart = s.counterPart ∧ t.pend ||| 0x08 = s.pend ||| 0x08 ∧
    t.choices = s.choices ∧ t.agenda = s.agenda) ∧
  (∀ (s : State) (run : Bool) (ev : EvWord), s.atA0 → ∃ t : State, exec .adv { s with run := run, ev := ev } = .next t) ∧
  (∀ (s : State) (run : Bool) (ev : EvWord) (ph : AdvPhase), s.atAdv ph → (ph = .idle → s.pending .fast = true) →
    ∃ t : State, exec (advRow ph) { s with run := run, ev := ev } = .next t)

/-- Rotation (rule R124): from CUR = c in 0 to 4, the n-th ADV draws position (c + n - 1) mod 5; the counter is
untouched. That the lines ADV are also legal while buttons are pending is the model's choice (log entry 13). -/
def Obligations.AdvVisitsTheFivePositionsInTurn : Prop :=
  ∀ (n : Nat) (s : State), s.atRest → s.cur.toNat ≤ 4 →
    ∃ t : State, runLines (advTimes n) s = .next t ∧ t.atRest ∧
      t.cur.toNat = (s.cur.toNat + n) % 5 ∧
      t.counterPart = s.counterPart ∧ t.pend = s.pend ∧
      (0 < n → Position.index t.p = (s.cur.toNat + (n - 1)) % 5 ∧ enabledPositions t.dsel = [t.p])

/-- The terminal value is displayed as 99:90 (rules R73 and R127, decisions D5, D12): read from left to right
the glass shows 9, 9, the colon, 9, 0. -/
def Obligations.TerminalValueShowsNinetyNineNinety : Prop :=
  glass = [.digit3, .digit2, .colon, .digit1, .digit0] ∧
  ∀ (p : Position) (s : State), s.atA0 → s.ev = 0x9990 → s.cur.toNat = Position.index p →
    ∃ t : State, exec .adv s = .next t ∧ enabledPositions t.dsel = [p] ∧
      t.seg = (match p with
        | .digit3 => 0x90
        | .digit2 => 0x90
        | .colon => Config.block.colonPat
        | .digit1 => 0x90
        | .digit0 => 0xC0)

/-- The digit patterns (rules R101 and R103, decision D14) light the canonical segments, are pairwise
different, leave the decimal point dark and are never blank; COLON_PAT differs from all of them (rule R122). -/
def Obligations.DigitPatternsAreTheCanonicalOnes : Prop :=
  Config.block.segTab.toList.map litSegments =
    [[.a, .b, .c, .d, .e, .f], [.b, .c], [.a, .b, .d, .e, .g], [.a, .b, .c, .d, .g], [.b, .c, .f, .g],
     [.a, .c, .d, .f, .g], [.a, .c, .d, .e, .f, .g], [.a, .b, .c], [.a, .b, .c, .d, .e, .f, .g],
     [.a, .b, .c, .d, .f, .g]] ∧
  Config.block.segTab.toList.Nodup ∧ (0xFF : Byte) ∉ Config.block.segTab.toList ∧
  (∀ p ∈ Config.block.segTab.toList, p.getLsbD 7 = true) ∧
  Config.block.colonPat ∉ Config.block.segTab.toList

/-- Blanking (rules R112, R115, R116, R125): in a state of a run, a row that is one step of the block changes SEG
only while DSEL enables no position. -/
def Obligations.SegmentsChangeOnlyWhileBlank : Prop :=
  ∀ (i : Instr) (s t : State), s.Inv → i ∈ stepRows → exec i s = .next t → t.seg ≠ s.seg →
    s.dsel = 0x1F ∧ t.dsel = 0x1F

/-! ## The buttons -/

/-- Rule R160: START, at any boundary; its effect on a TICK in progress and at the terminal value; and it alone
sets RUN. -/
def Obligations.StartSetsRunAndNothingElse : Prop :=
  (∀ s : State, s.pending .start = true →
    exec .start s = .next { s with run := true, pend := s.pend &&& 0x1B }) ∧
  (∀ (i : Instr) (s t : State), exec i s = .next t → s.run = false → t.run = true → i = .start) ∧
  (∀ s : State, s.tph ≠ .idle →
    (restOfTick Config.block 8 (microStart s)).ev = (restOfTick Config.block 8 s).ev ∧
    (restOfTick Config.block 8 (microStart s)).sub = (restOfTick Config.block 8 s).sub ∧
    (restOfTick Config.block 8 (microStart s)).sec = (restOfTick Config.block 8 s).sec) ∧
  (∀ s : State,
    (s.ev = 0x9990 ∧ (s.tph = .k1 ∨ s.tph = .k3 ∨ s.tph = .k5 ∧ s.c1 = true ∨ s.tph = .k7 ∧ s.c2 = true)) ∨
      (s.ev + 0x0010 = 0x9990 ∧ (s.tph = .k1 ∨ s.tph = .k2)) →
    (restOfTick Config.block 8 (microStart s)).run = false) ∧
  (∀ s t u : State, s.pending .start = true → s.ev = 0x9990 → s.tph = .idle →
    exec .start s = .next t → exec .tick t = .next u → u.ev = 0x9990 ∧ u.run = false)

/-- Rule R161 (decisions D10, D29): RST clears EV and RUN together, in every state, and the internal counters
only where RST_CLEARS_COUNTERS, which is false in this block. -/
def Obligations.RstClearsTheCountAndStops : Prop :=
  (∀ s : State, s.pending .rst = true →
    exec .rst s = .next { s with ev := 0, run := false, pend := s.pend &&& 0x1D }) ∧
  (∀ (c : Config) (s : State),
    (c.rstClearsCounters = true →
      microRst c s = { s with ev := 0, run := false, sub := 0, sec := 0, pend := s.pend &&& 0x1D }) ∧
    (c.rstClearsCounters = false →
      microRst c s = { s with ev := 0, run := false, pend := s.pend &&& 0x1D }))

/-- Rule R162: STOP clears RUN alone, a TICK past its gate still counts, and a START then resumes the count. -/
def Obligations.StopClearsRunAndNothingElse : Prop :=
  (∀ s : State, s.pending .stop = true →
    exec .stop s = .next { s with run := false, pend := s.pend &&& 0x1E }) ∧
  (∀ s : State, s.tph ≠ .idle →
    (restOfTick Config.block 8 (microStop s)).ev = (restOfTick Config.block 8 s).ev ∧
    (restOfTick Config.block 8 (microStop s)).sub = (restOfTick Config.block 8 s).sub ∧
    (restOfTick Config.block 8 (microStop s)).sec = (restOfTick Config.block 8 s).sec ∧
    (restOfTick Config.block 8 (microStop s)).run = false) ∧
  (∀ s t u : State, s.pending .stop = true → s.pending .start = true →
    exec .stop s = .next t → exec .start t = .next u → u = { s with run := true, pend := s.pend &&& 0x1A })

/-- Rule R164: the buttons are always live. Nothing in the state masks, ignores or defers a pending button: its
step is enabled and completes whatever RUN, EV, TPH and APH are (PREEMPT = true, decision D20). -/
def Obligations.ButtonsAreAlwaysLive : Prop :=
  ∀ s : State,
    (s.pending .start = true → .start ∈ enabledSteps Config.block s ∧ ∃ t : State, exec .start s = .next t) ∧
    (s.pending .rst = true → .rst ∈ enabledSteps Config.block s ∧ ∃ t : State, exec .rst s = .next t) ∧
    (s.pending .stop = true → .stop ∈ enabledSteps Config.block s ∧ ∃ t : State, exec .stop s = .next t)

/-- Rule R165 (decision D21): a button operation clears its own pending bit and no other, so it is not taken
again until it is requested again. -/
def Obligations.OneRequestOneExecution : Prop :=
  ∀ (r : Source) (i : Instr) (s t : State),
    (r = .start ∧ i = .start) ∨ (r = .rst ∧ i = .rst) ∨ (r = .stop ∧ i = .stop) → exec i s = .next t →
    t.pending r = false ∧ (∀ q : Source, q ≠ r → t.pending q = s.pending q) ∧
    exec i t = .refused .notEnabled ∧ i ∉ enabledSteps Config.block t

/-- With PEND = 0 and both phases IDLE the block takes no step and no register changes, and NOP is the row of the
request vector 0 (rule R163). That executing the row NOP changes nothing in every other state too is the model's
choice (log entry 6). -/
def Obligations.IdleBlockTakesNoStep : Prop :=
  (∀ s : State, s.quiescent → enabledSteps Config.block s = [] ∧ freeStep Config.block s = .next s ∧
    (s.agenda = [] → step s = .next s) ∧ runLine .nop s = .next s) ∧
  (∀ s : State, exec .nop s = .next s) ∧ decode .pend 0b00000000 = .instr .nop

/-- Rule R23: who writes RUN, when it is set and when it is cleared, and that K0 alone reads it (the whole TICK
through its K0). -/
def Obligations.RunIsWrittenByItsWritersOnly : Prop :=
  (∀ (i : Instr) (s t : State), exec i s = .next t → t.run ≠ s.run →
    (t.run = true ∧ i = .start) ∨
    (t.run = false ∧ (i = .stop ∨ i = .rst ∨ i = .por ∨
      (t.ev = 0x9990 ∧ i ∈ ([.tick, .tickK1, .tickK3, .tickK5, .tickK7] : List Instr))))) ∧
  (∀ (i : Instr) (s t u : State) (b : Bool), i ≠ .tickK0 → i ≠ .tick →
    exec i s = .next t → exec i { s with run := b } = .next u → { u with run := t.run } = t)

/-! ## Requests and the sequencer -/

/-- Rule R185 (decisions D19, D20), for every configuration: the enabled steps are exactly those it lists, with at
most one of class (T) or (A). -/
def Obligations.EnabledStepsAreThoseOfTheStepRelation : Prop :=
  ∀ (c : Config) (s : State),
    (∀ i : Instr, i ∈ enabledSteps c s ↔
      ((i = .start ∧ s.pend.getLsbD 2 = true ∨ i = .rst ∧ s.pend.getLsbD 1 = true ∨
          i = .stop ∧ s.pend.getLsbD 0 = true) ∧
        (c.preempt = true ∨
          (s.tph = .idle ∧ s.aph = .idle ∧ s.pend.getLsbD 4 = false ∧ s.pend.getLsbD 3 = false))) ∨
      (s.tph ≠ .idle ∧ i = tickRow s.tph) ∨
      (s.tph = .idle ∧ s.pend.getLsbD 4 = true ∧ i = .tickK0) ∨
      (s.tph = .idle ∧ s.pend.getLsbD 4 = false ∧
        (s.aph ≠ .idle ∧ i = advRow s.aph ∨ s.aph = .idle ∧ s.pend.getLsbD 3 = true ∧ i = .advA0))) ∧
    (tickSteps s ++ advSteps s).length ≤ 1

/-- The rows that are one step of the block run exactly where rule R185 enables them, and are refused
elsewhere. -/
def Obligations.StepRowsRunExactlyWhereEnabled : Prop :=
  ∀ (i : Instr) (s : State), i ∈ stepRows →
    (i ∈ enabledSteps Config.block s ∧ ∃ t : State, exec i s = .next t) ∨
    (i ∉ enabledSteps Config.block s ∧ exec i s = .refused .notEnabled)

/-- Rules R170 and R185 (decision D26): the block's own step is never a fault or a refusal; it is no step where
none is enabled, and otherwise one of the enabled ones, whichever the free choice (log entry 4) picks. -/
def Obligations.OwnStepTakesAnEnabledStep : Prop :=
  ∀ s : State, s.agenda = [] →
    (enabledSteps Config.block s = [] ∧ step s = .next s) ∨
    ∃ (i : Instr) (t u : State), i ∈ enabledSteps Config.block s ∧ step s = .next t ∧ exec i s = .next u ∧
      t = { u with choices := t.choices }

/-- The model leaves out no step (rule R185): every enabled step can be the next turn, and taking it is exec of its
row. And none is passed over for ever in a weakly fair run (rule R184, decision D28; with PREEMPT = true, decision
D20): unless a POR comes first, a pending button and an enabled step of TICK are eventually taken, and so is the
micro-operation of an ADV that is owed, unless the slow source raises PEND[4] again and again for ever; that exception
is wider than the one rule R184 names, which is the model's choice (log entry 15). -/
def Obligations.EveryEnabledStepCanBeTaken : Prop :=
  (∀ (i : Instr) (s : State), i ∈ enabledSteps Config.block s →
    ∃ (f : Format) (b : Byte) (t : State), step { s with agenda := .row f b :: s.agenda } = .next t ∧
      exec i s = .next t) ∧
  (∀ (state : Nat → State) (move : Nat → Move), FairRun state move → ∀ n : Nat,
    (∀ (r : Source) (i : Instr),
      (r = .start ∧ i = .start) ∨ (r = .rst ∧ i = .rst) ∨ (r = .stop ∧ i = .stop) →
      (state n).pending r = true → ∃ m, n ≤ m ∧ (move m = .take i ∨ move m = .por)) ∧
    ((state n).tph ≠ .idle ∨ (state n).pending .slow = true →
      ∃ m, n ≤ m ∧ (move m = .take (tickRow (state n).tph) ∨ move m = .por)) ∧
    ((state n).aph ≠ .idle ∨ (state n).pending .fast = true → ¬ SlowSourceNeverStops move →
      ∃ m, n ≤ m ∧ (move m = .take (advRow (state n).aph) ∨ move m = .por)))

/-- A turn that presents the bits of a row runs exec of the decoded row on the state with the turn taken off, and a
turn whose bits name no row is refused. -/
def Obligations.RowTurnRunsTheDecodedRow : Prop :=
  ∀ (f : Format) (b : Byte) (more : List Turn) (s : State), s.agenda = .row f b :: more →
    (∀ i : Instr, decode f b = .instr i → step s = exec i { s with agenda := more }) ∧
    (∀ e : DecodeError, decode f b = .rejected e → step s = .refused .undecodable)

/-- Every row of the table, presented after reset, is what the next step runs, and it completes. The trace word
(log entry 2) and what withFetchWord sets (log entry 12) are the model's choices. -/
def Obligations.EveryRowRunsWhenPresentedAfterReset : Prop :=
  ∀ i : Instr, i.wf = true →
    decodeTableWord 16 ((encodeBytes i).1.toNat + 256 * (encodeBytes i).2.toNat) = some i ∧
    ∃ t : State,
      step (State.reset.withFetchWord 16 ((encodeBytes i).1.toNat + 256 * (encodeBytes i).2.toNat)) = .next t ∧
      exec i (selectRow (encode i).1 (encode i).2 State.reset) = .next t

/-- Rules R172 and R183 (decision D21): a request sets its pending bits at any boundary and writes nothing else;
repeated requests merge. -/
def Obligations.RequestsSetPendingBitsAndMerge : Prop :=
  (∀ (v : Requests) (more : List Turn) (s : State), s.agenda = .req v :: more →
    step s = .next { s with pend := s.pend ||| v, agenda := more }) ∧
  (∀ (v : Requests) (s : State), (s.raise v).raise v = s.raise v) ∧
  (∀ (r q : Source) (s : State),
    (s.raise (pendVector r)).pending q = (s.pending q || decide (q = r)))

/-- Rule R186 (decision D19): the reference sequencer takes (T), else (A), else START, RST, STOP, and its choice
is enabled for either value of PREEMPT. -/
def Obligations.ReferenceSequencerChoosesByPriority : Prop :=
  ∀ (c : Config) (s : State),
    (s.tph ≠ .idle ∨ s.pending .slow = true → referenceChoice c s = tickRow s.tph) ∧
    (s.tph = .idle → s.pending .slow = false → s.aph ≠ .idle ∨ s.pending .fast = true →
      referenceChoice c s = advRow s.aph) ∧
    (s.tph = .idle → s.pending .slow = false → s.aph = .idle → s.pending .fast = false →
      referenceChoice c s = if s.pending .start then .start else if s.pending .rst then .rst
        else if s.pending .stop then .stop else .nop) ∧
    (∀ b : Bool, referenceChoice c s ∈ enabledSteps { c with preempt := b } s ∨
      (referenceChoice c s = .nop ∧ enabledSteps { c with preempt := b } s = []))

/-- Rule R187 (decision D19): the second sequencer, with PREEMPT = true, takes RST, STOP, START, then (T), then
(A), and its choice is enabled. -/
def Obligations.SecondSequencerTakesButtonsFirst : Prop :=
  ∀ (c : Config) (s : State), c.preempt = true →
    secondChoice c s =
      (if s.pending .rst then .rst else if s.pending .stop then .stop else if s.pending .start then .start
       else if s.tph ≠ .idle ∨ s.pending .slow = true then tickRow s.tph
       else if s.aph ≠ .idle ∨ s.pending .fast = true then advRow s.aph else .nop) ∧
    (secondChoice c s ∈ enabledSteps c s ∨ (secondChoice c s = .nop ∧ enabledSteps c s = []))

/-- Rules R59 (a), (b) and R175 (decision D20): while a TICK is in progress or pending nothing but POR touches the
display's registers, so an ADV in progress is suspended where it is and keeps its place. -/
def Obligations.TickSuspendsAdvWithoutDisturbingIt : Prop :=
  ∀ (i : Instr) (s t : State), s.tph ≠ .idle ∨ s.pending .slow = true → i ≠ .por → exec i s = .next t →
    t.displayPart = s.displayPart

/-- Rules R58 and R126: what the counter does never depends on the display, and what the display does depends on
the counter through EV alone. -/
def Obligations.CounterAndDisplayShareOnlyTheElapsedValue : Prop :=
  ∀ (i : Instr) (s1 s2 t1 t2 : State), exec i s1 = .next t1 → exec i s2 = .next t2 →
    (s1.counterPart = s2.counterPart → t1.counterPart = t2.counterPart) ∧
    (s1.displayPart = s2.displayPart → s1.ev = s2.ev → s1.draws = s2.draws →
      t1.displayPart = t2.displayPart)

/-! ## Invariants and hazards -/

/-- Every step keeps the invariant of a run. -/
def Obligations.EveryStepKeepsTheRunInvariant : Prop :=
  ∀ s t : State, s.Inv → step s = .next t → t.Inv

/-- Rules R22, R25, R26, R24 and R144, in every state a run reaches: the decimal ranges at every TICK-idle point,
and that inside a TICK no field exceeds 10 and F3 never exceeds 9. -/
def Obligations.ReachableFieldsStayDecimal : Prop :=
  ∀ s : State, Reachable s →
    (s.tph = .idle → s.f 0 = 0 ∧ s.f 1 ≤ 9 ∧ s.f 2 ≤ 9 ∧ s.f 3 ≤ 9 ∧ s.ev.toNat ≤ 0x9990 ∧
      s.sub.toNat ≤ 9 ∧ s.sec.toNat ≤ 9 ∧ s.c1 = false ∧ s.c2 = false) ∧
    s.f 0 = 0 ∧ s.f 1 ≤ 10 ∧ s.f 2 ≤ 10 ∧ s.f 3 ≤ 9 ∧ s.sub.toNat ≤ 10 ∧ s.sec.toNat ≤ 10 ∧
    (s.f 1 = 10 → s.tph = .k3 ∨ s.tph = .k4) ∧ (s.f 2 = 10 → s.tph = .k5 ∨ s.tph = .k6) ∧
    s.cur.toNat ≤ 4

/-- Rule R102: in a state of a run no step gives ENC an index above 9, so no draw is made. -/
def Obligations.NoDrawIsMadeInARun : Prop :=
  ∀ s t : State, s.Inv → step s = .next t → t.draws = s.draws

/-- Rules R136, R138 and R139: in a state of a run the tests K5 and K7 never stop the TICK and K8 never changes
EV; in every state, K5 and K7 reached through their carry do not stop it. -/
def Obligations.LateTestsAndSafetyNetHaveNoEffectInARun : Prop :=
  (∀ s t : State, s.Inv → exec .tickK5 s = .next t → t = { s with tph := .k6 }) ∧
  (∀ s t : State, s.Inv → exec .tickK7 s = .next t → t = { s with tph := .k8 }) ∧
  (∀ s t : State, s.Inv → exec .tickK8 s = .next t → t.ev = s.ev) ∧
  (∀ s t u : State, s.sub = 10 → exec .tickK4 s = .next t → exec .tickK5 t = .next u → u.tph = .k6) ∧
  (∀ s t u : State, s.sec = 10 → exec .tickK6 s = .next t → exec .tickK7 t = .next u → u.tph = .k8)

/-- Rule R204, case 1: where RST lands after n micro-operations of a TICK that takes no carry, the count is
cleared, stepped once, or wiped after the step, and RUN ends 0. -/
def Obligations.RstInsideAPlainTick : Prop :=
  ∀ (n : Nat) (s : State), n ≤ 9 → s.tph = .idle → s.c1 = false → s.c2 = false → s.run = true →
    s.ev ≠ 0x9990 → s.ev + 0x0010 ≠ 0x9990 → s.sub ≠ 9 → s.sec ≠ 10 →
    let t := tickWithRst Config.block n s
    t.tph = .idle ∧ t.run = false ∧ t.sec = s.sec ∧
    t.ev = (if n = 1 ∨ n = 2 then 0x0010 else 0) ∧ t.sub = (if n = 0 then s.sub else s.sub + 1)

/-- Rule R204, case 2: where RST lands after n micro-operations of a TICK that takes both carries, the carries
still fire on the cleared value if they were still to come. -/
def Obligations.RstInsideADoubleCarry : Prop :=
  ∀ (n : Nat) (s : State), n ≤ 9 → s.tph = .idle → s.c1 = false → s.c2 = false → s.run = true →
    s.ev ≠ 0x9990 → s.ev + 0x0010 ≠ 0x9990 → s.sub = 9 → s.sec = 9 →
    let t := tickWithRst Config.block n s
    t.tph = .idle ∧ t.run = false ∧
    t.ev = (if 1 ≤ n ∧ n ≤ 6 then 0x1000 else 0) ∧
    t.sub = (if n = 0 then 9 else 0) ∧ t.sec = (if n = 0 then 9 else 0)
end

