-- ==== Sys2Proof/Laws/State.lean ====
section
/-! SUPPORT. What each named update of the state leaves in each field; true by rfl. -/

namespace Sys2Proof.Machine

variable (s : State)

/-! State.raise -/

@[simp] theorem State.raise_ev (v : Requests) : (s.raise v).ev = s.ev := rfl
@[simp] theorem State.raise_run (v : Requests) : (s.raise v).run = s.run := rfl
@[simp] theorem State.raise_cur (v : Requests) : (s.raise v).cur = s.cur := rfl
@[simp] theorem State.raise_sub (v : Requests) : (s.raise v).sub = s.sub := rfl
@[simp] theorem State.raise_sec (v : Requests) : (s.raise v).sec = s.sec := rfl
@[simp] theorem State.raise_seg (v : Requests) : (s.raise v).seg = s.seg := rfl
@[simp] theorem State.raise_dsel (v : Requests) : (s.raise v).dsel = s.dsel := rfl
@[simp] theorem State.raise_pend (v : Requests) : (s.raise v).pend = s.pend ||| v := rfl
@[simp] theorem State.raise_tph (v : Requests) : (s.raise v).tph = s.tph := rfl
@[simp] theorem State.raise_c1 (v : Requests) : (s.raise v).c1 = s.c1 := rfl
@[simp] theorem State.raise_c2 (v : Requests) : (s.raise v).c2 = s.c2 := rfl
@[simp] theorem State.raise_aph (v : Requests) : (s.raise v).aph = s.aph := rfl
@[simp] theorem State.raise_p (v : Requests) : (s.raise v).p = s.p := rfl
@[simp] theorem State.raise_d (v : Requests) : (s.raise v).d = s.d := rfl
@[simp] theorem State.raise_draws (v : Requests) : (s.raise v).draws = s.draws := rfl
@[simp] theorem State.raise_choices (v : Requests) : (s.raise v).choices = s.choices := rfl
@[simp] theorem State.raise_agenda (v : Requests) : (s.raise v).agenda = s.agenda := rfl

/-! State.clear -/

@[simp] theorem State.clear_ev (r : Source) : (s.clear r).ev = s.ev := rfl
@[simp] theorem State.clear_run (r : Source) : (s.clear r).run = s.run := rfl
@[simp] theorem State.clear_cur (r : Source) : (s.clear r).cur = s.cur := rfl
@[simp] theorem State.clear_sub (r : Source) : (s.clear r).sub = s.sub := rfl
@[simp] theorem State.clear_sec (r : Source) : (s.clear r).sec = s.sec := rfl
@[simp] theorem State.clear_seg (r : Source) : (s.clear r).seg = s.seg := rfl
@[simp] theorem State.clear_dsel (r : Source) : (s.clear r).dsel = s.dsel := rfl
@[simp] theorem State.clear_pend (r : Source) : (s.clear r).pend = s.pend &&& ~~~pendVector r := rfl
@[simp] theorem State.clear_tph (r : Source) : (s.clear r).tph = s.tph := rfl
@[simp] theorem State.clear_c1 (r : Source) : (s.clear r).c1 = s.c1 := rfl
@[simp] theorem State.clear_c2 (r : Source) : (s.clear r).c2 = s.c2 := rfl
@[simp] theorem State.clear_aph (r : Source) : (s.clear r).aph = s.aph := rfl
@[simp] theorem State.clear_p (r : Source) : (s.clear r).p = s.p := rfl
@[simp] theorem State.clear_d (r : Source) : (s.clear r).d = s.d := rfl
@[simp] theorem State.clear_draws (r : Source) : (s.clear r).draws = s.draws := rfl
@[simp] theorem State.clear_choices (r : Source) : (s.clear r).choices = s.choices := rfl
@[simp] theorem State.clear_agenda (r : Source) : (s.clear r).agenda = s.agenda := rfl

/-! State.endTick -/

@[simp] theorem State.endTick_ev : (s.endTick).ev = s.ev := rfl
@[simp] theorem State.endTick_run : (s.endTick).run = s.run := rfl
@[simp] theorem State.endTick_cur : (s.endTick).cur = s.cur := rfl
@[simp] theorem State.endTick_sub : (s.endTick).sub = s.sub := rfl
@[simp] theorem State.endTick_sec : (s.endTick).sec = s.sec := rfl
@[simp] theorem State.endTick_seg : (s.endTick).seg = s.seg := rfl
@[simp] theorem State.endTick_dsel : (s.endTick).dsel = s.dsel := rfl
@[simp] theorem State.endTick_pend : (s.endTick).pend = s.pend := rfl
@[simp] theorem State.endTick_tph : (s.endTick).tph = .idle := rfl
@[simp] theorem State.endTick_c1 : (s.endTick).c1 = false := rfl
@[simp] theorem State.endTick_c2 : (s.endTick).c2 = false := rfl
@[simp] theorem State.endTick_aph : (s.endTick).aph = s.aph := rfl
@[simp] theorem State.endTick_p : (s.endTick).p = s.p := rfl
@[simp] theorem State.endTick_d : (s.endTick).d = s.d := rfl
@[simp] theorem State.endTick_draws : (s.endTick).draws = s.draws := rfl
@[simp] theorem State.endTick_choices : (s.endTick).choices = s.choices := rfl
@[simp] theorem State.endTick_agenda : (s.endTick).agenda = s.agenda := rfl

/-! State.toTick -/

@[simp] theorem State.toTick_ev (ph : TickPhase) : (s.toTick ph).ev = s.ev := rfl
@[simp] theorem State.toTick_run (ph : TickPhase) : (s.toTick ph).run = s.run := rfl
@[simp] theorem State.toTick_cur (ph : TickPhase) : (s.toTick ph).cur = s.cur := rfl
@[simp] theorem State.toTick_sub (ph : TickPhase) : (s.toTick ph).sub = s.sub := rfl
@[simp] theorem State.toTick_sec (ph : TickPhase) : (s.toTick ph).sec = s.sec := rfl
@[simp] theorem State.toTick_seg (ph : TickPhase) : (s.toTick ph).seg = s.seg := rfl
@[simp] theorem State.toTick_dsel (ph : TickPhase) : (s.toTick ph).dsel = s.dsel := rfl
@[simp] theorem State.toTick_pend (ph : TickPhase) : (s.toTick ph).pend = s.pend := rfl
@[simp] theorem State.toTick_tph (ph : TickPhase) : (s.toTick ph).tph = ph := rfl
@[simp] theorem State.toTick_c1 (ph : TickPhase) : (s.toTick ph).c1 = s.c1 := rfl
@[simp] theorem State.toTick_c2 (ph : TickPhase) : (s.toTick ph).c2 = s.c2 := rfl
@[simp] theorem State.toTick_aph (ph : TickPhase) : (s.toTick ph).aph = s.aph := rfl
@[simp] theorem State.toTick_p (ph : TickPhase) : (s.toTick ph).p = s.p := rfl
@[simp] theorem State.toTick_d (ph : TickPhase) : (s.toTick ph).d = s.d := rfl
@[simp] theorem State.toTick_draws (ph : TickPhase) : (s.toTick ph).draws = s.draws := rfl
@[simp] theorem State.toTick_choices (ph : TickPhase) : (s.toTick ph).choices = s.choices := rfl
@[simp] theorem State.toTick_agenda (ph : TickPhase) : (s.toTick ph).agenda = s.agenda := rfl

/-! State.toAdv -/

@[simp] theorem State.toAdv_ev (ph : AdvPhase) : (s.toAdv ph).ev = s.ev := rfl
@[simp] theorem State.toAdv_run (ph : AdvPhase) : (s.toAdv ph).run = s.run := rfl
@[simp] theorem State.toAdv_cur (ph : AdvPhase) : (s.toAdv ph).cur = s.cur := rfl
@[simp] theorem State.toAdv_sub (ph : AdvPhase) : (s.toAdv ph).sub = s.sub := rfl
@[simp] theorem State.toAdv_sec (ph : AdvPhase) : (s.toAdv ph).sec = s.sec := rfl
@[simp] theorem State.toAdv_seg (ph : AdvPhase) : (s.toAdv ph).seg = s.seg := rfl
@[simp] theorem State.toAdv_dsel (ph : AdvPhase) : (s.toAdv ph).dsel = s.dsel := rfl
@[simp] theorem State.toAdv_pend (ph : AdvPhase) : (s.toAdv ph).pend = s.pend := rfl
@[simp] theorem State.toAdv_tph (ph : AdvPhase) : (s.toAdv ph).tph = s.tph := rfl
@[simp] theorem State.toAdv_c1 (ph : AdvPhase) : (s.toAdv ph).c1 = s.c1 := rfl
@[simp] theorem State.toAdv_c2 (ph : AdvPhase) : (s.toAdv ph).c2 = s.c2 := rfl
@[simp] theorem State.toAdv_aph (ph : AdvPhase) : (s.toAdv ph).aph = ph := rfl
@[simp] theorem State.toAdv_p (ph : AdvPhase) : (s.toAdv ph).p = s.p := rfl
@[simp] theorem State.toAdv_d (ph : AdvPhase) : (s.toAdv ph).d = s.d := rfl
@[simp] theorem State.toAdv_draws (ph : AdvPhase) : (s.toAdv ph).draws = s.draws := rfl
@[simp] theorem State.toAdv_choices (ph : AdvPhase) : (s.toAdv ph).choices = s.choices := rfl
@[simp] theorem State.toAdv_agenda (ph : AdvPhase) : (s.toAdv ph).agenda = s.agenda := rfl

/-! State.popTurn -/

@[simp] theorem State.popTurn_ev : (s.popTurn).ev = s.ev := rfl
@[simp] theorem State.popTurn_run : (s.popTurn).run = s.run := rfl
@[simp] theorem State.popTurn_cur : (s.popTurn).cur = s.cur := rfl
@[simp] theorem State.popTurn_sub : (s.popTurn).sub = s.sub := rfl
@[simp] theorem State.popTurn_sec : (s.popTurn).sec = s.sec := rfl
@[simp] theorem State.popTurn_seg : (s.popTurn).seg = s.seg := rfl
@[simp] theorem State.popTurn_dsel : (s.popTurn).dsel = s.dsel := rfl
@[simp] theorem State.popTurn_pend : (s.popTurn).pend = s.pend := rfl
@[simp] theorem State.popTurn_tph : (s.popTurn).tph = s.tph := rfl
@[simp] theorem State.popTurn_c1 : (s.popTurn).c1 = s.c1 := rfl
@[simp] theorem State.popTurn_c2 : (s.popTurn).c2 = s.c2 := rfl
@[simp] theorem State.popTurn_aph : (s.popTurn).aph = s.aph := rfl
@[simp] theorem State.popTurn_p : (s.popTurn).p = s.p := rfl
@[simp] theorem State.popTurn_d : (s.popTurn).d = s.d := rfl
@[simp] theorem State.popTurn_draws : (s.popTurn).draws = s.draws := rfl
@[simp] theorem State.popTurn_choices : (s.popTurn).choices = s.choices := rfl
@[simp] theorem State.popTurn_agenda : (s.popTurn).agenda = s.agenda.tail := rfl

/-! State.chosen -/

@[simp] theorem State.chosen_ev : (s.chosen).ev = s.ev := rfl
@[simp] theorem State.chosen_run : (s.chosen).run = s.run := rfl
@[simp] theorem State.chosen_cur : (s.chosen).cur = s.cur := rfl
@[simp] theorem State.chosen_sub : (s.chosen).sub = s.sub := rfl
@[simp] theorem State.chosen_sec : (s.chosen).sec = s.sec := rfl
@[simp] theorem State.chosen_seg : (s.chosen).seg = s.seg := rfl
@[simp] theorem State.chosen_dsel : (s.chosen).dsel = s.dsel := rfl
@[simp] theorem State.chosen_pend : (s.chosen).pend = s.pend := rfl
@[simp] theorem State.chosen_tph : (s.chosen).tph = s.tph := rfl
@[simp] theorem State.chosen_c1 : (s.chosen).c1 = s.c1 := rfl
@[simp] theorem State.chosen_c2 : (s.chosen).c2 = s.c2 := rfl
@[simp] theorem State.chosen_aph : (s.chosen).aph = s.aph := rfl
@[simp] theorem State.chosen_p : (s.chosen).p = s.p := rfl
@[simp] theorem State.chosen_d : (s.chosen).d = s.d := rfl
@[simp] theorem State.chosen_draws : (s.chosen).draws = s.draws := rfl
@[simp] theorem State.chosen_choices : (s.chosen).choices = s.choices + 1 := rfl
@[simp] theorem State.chosen_agenda : (s.chosen).agenda = s.agenda := rfl

/-! State.autoStop -/

@[simp] theorem State.autoStop_ev : (s.autoStop).ev = s.ev := rfl
@[simp] theorem State.autoStop_run : (s.autoStop).run = false := rfl
@[simp] theorem State.autoStop_cur : (s.autoStop).cur = s.cur := rfl
@[simp] theorem State.autoStop_sub : (s.autoStop).sub = s.sub := rfl
@[simp] theorem State.autoStop_sec : (s.autoStop).sec = s.sec := rfl
@[simp] theorem State.autoStop_seg : (s.autoStop).seg = s.seg := rfl
@[simp] theorem State.autoStop_dsel : (s.autoStop).dsel = s.dsel := rfl
@[simp] theorem State.autoStop_pend : (s.autoStop).pend = s.pend := rfl
@[simp] theorem State.autoStop_tph : (s.autoStop).tph = .idle := rfl
@[simp] theorem State.autoStop_c1 : (s.autoStop).c1 = false := rfl
@[simp] theorem State.autoStop_c2 : (s.autoStop).c2 = false := rfl
@[simp] theorem State.autoStop_aph : (s.autoStop).aph = s.aph := rfl
@[simp] theorem State.autoStop_p : (s.autoStop).p = s.p := rfl
@[simp] theorem State.autoStop_d : (s.autoStop).d = s.d := rfl
@[simp] theorem State.autoStop_draws : (s.autoStop).draws = s.draws := rfl
@[simp] theorem State.autoStop_choices : (s.autoStop).choices = s.choices := rfl
@[simp] theorem State.autoStop_agenda : (s.autoStop).agenda = s.agenda := rfl

end Sys2Proof.Machine
end

