-- ==== Sys2Proof/Laws/Ops.lean ====
section
/-! SUPPORT. One lemma for each shared operation that says once everything it can do. -/

namespace Sys2Proof.Machine

open Host (Outcome)

/-- A guarded step completes exactly where its guard holds, with the state it was given. -/
theorem whenEnabled_eq_next {g : Bool} {after t : State} :
    whenEnabled g after = .next t ↔ g = true ∧ t = after := by
  cases g <;> simp [whenEnabled, eq_comm]

/-- A guarded step is never a fault. -/
theorem whenEnabled_ne_fault {g : Bool} {after : State} {r : Fault} : whenEnabled g after ≠ .fault r := by
  cases g <;> simp [whenEnabled]

/-- A guarded step is refused exactly where its guard does not hold. -/
theorem whenEnabled_eq_refused {g : Bool} {after : State} {r : Refusal} :
    whenEnabled g after = .refused r ↔ g = false ∧ r = .notEnabled := by
  cases g <;> simp [whenEnabled, eq_comm]

@[simp] theorem whenEnabled_true (after : State) : whenEnabled true after = .next after := rfl

@[simp] theorem whenEnabled_false (after : State) : whenEnabled false after = .refused .notEnabled := rfl

/-- TICK is enabled at a phase exactly where TPH is there, and for K0 also PEND[4] = 1. -/
theorem tickEnabled_iff {ph : TickPhase} {s : State} :
    tickEnabled ph s = true ↔ s.tph = ph ∧ (ph = .idle → s.pending .slow = true) := by
  cases ph <;> simp [tickEnabled]

/-- ADV is enabled at a phase exactly where no TICK is in progress or pending and APH is there, and for A0 also
PEND[3] = 1. -/
theorem advEnabled_iff {ph : AdvPhase} {s : State} :
    advEnabled ph s = true ↔
      s.tph = .idle ∧ s.pending .slow = false ∧ s.aph = ph ∧ (ph = .idle → s.pending .fast = true) := by
  cases ph <;> simp [advEnabled, and_assoc]

/-- With PREEMPT = true a button is enabled exactly where it is pending. -/
theorem buttonEnabled_block {r : Source} {s : State} :
    buttonEnabled Config.block r s = s.pending r := by
  simp [buttonEnabled, btnOk, Config.block]

/-- A terminal test either auto-stops at TERMINAL or goes on to the next phase. -/
theorem terminalTest_cases (c : Config) (made : Bool) (next : TickPhase) (s : State) :
    (made = true ∧ s.ev = c.terminal ∧ terminalTest c made next s = s.autoStop) ∨
    (¬(made = true ∧ s.ev = c.terminal) ∧ terminalTest c made next s = s.toTick next) := by
  by_cases h : made = true ∧ s.ev = c.terminal
  · left; simp [terminalTest, h]
  · right
    refine ⟨h, ?_⟩
    have : (made && s.ev == c.terminal) = false := by
      cases made <;> simp_all
    simp [terminalTest, this]

/-- The encoder writes the table's pattern, or a fresh draw, and nothing else. -/
theorem writeEnc_cases (c : Config) (s : State) (d : Nibble) :
    (∃ pattern, segTabRead c d = some pattern ∧ s.writeEnc c d = { s with seg := pattern }) ∨
    (segTabRead c d = none ∧
      s.writeEnc c d = { s with seg := Config.any8 s.draws, draws := s.draws + 1 }) := by
  unfold State.writeEnc
  cases h : segTabRead c d with
  | some pattern => exact .inl ⟨pattern, rfl, rfl⟩
  | none => exact .inr ⟨rfl, rfl⟩

/-- A table read is defined exactly for the digits 0 to 9. -/
theorem segTabRead_eq_none {c : Config} {d : Nibble} : segTabRead c d = none ↔ 9 < d.toNat := by
  simp only [segTabRead, Vector.getElem?_eq_none_iff]
  omega

/-- The rest of an idle TICK is nothing. -/
theorem restOfTick_idle (c : Config) (n : Nat) {s : State} (h : s.tph = .idle) : restOfTick c n s = s := by
  cases n <;> simp [restOfTick, h]

/-- A property that every micro-operation of a TICK in progress keeps holds after the rest of the TICK. -/
theorem restOfTick_keeps (c : Config) {P : State → Prop}
    (micro : ∀ s, s.tph ≠ .idle → P s → P (microTick c s)) (n : Nat) {s : State} (h : P s) :
    P (restOfTick c n s) := by
  induction n generalizing s with
  | zero => exact h
  | succ n ih =>
    by_cases hi : s.tph = .idle
    · rwa [restOfTick_idle c _ hi]
    · simpa [restOfTick, hi] using ih (micro s hi h)

/-- The micro-operation A0 to A5 of a state is the one its phase selects. -/
theorem microAdv_eq (c : Config) (s : State) :
    microAdv c s = match s.aph with
      | .idle => microA0 s
      | .a1 => microA1 s
      | .a2 => microA2 c s
      | .a3 => microA3 c s
      | .a4 => microA4 s
      | .a5 => microA5 s := rfl

/-- What A3 can do: the colon pattern, a digit pattern, or a draw. -/
theorem microA3_cases (c : Config) (s : State) :
    (s.p = .colon ∧ microA3 c s = { s with seg := c.colonPat, aph := .a4 }) ∨
    (s.p ≠ .colon ∧ ∃ pattern, segTabRead c s.d = some pattern ∧
      microA3 c s = { s with seg := pattern, aph := .a4 }) ∨
    (s.p ≠ .colon ∧ segTabRead c s.d = none ∧
      microA3 c s = { s with seg := Config.any8 s.draws, draws := s.draws + 1, aph := .a4 }) := by
  by_cases hp : s.p = .colon
  · exact .inl ⟨hp, by simp [microA3, hp]⟩
  · rcases writeEnc_cases c s s.d with ⟨pattern, hr, hw⟩ | ⟨hr, hw⟩
    · exact .inr (.inl ⟨hp, pattern, hr, by simp [microA3, hp, hw, State.toAdv]⟩)
    · exact .inr (.inr ⟨hp, hr, by simp [microA3, hp, hw, State.toAdv]⟩)

/-- What RST can do in any configuration. -/
theorem microRst_cases (c : Config) (s : State) :
    (c.rstClearsCounters = true ∧
      microRst c s = { s.clear .rst with ev := 0x0000, run := false, sub := 0, sec := 0 }) ∨
    (c.rstClearsCounters = false ∧ microRst c s = { s.clear .rst with ev := 0x0000, run := false }) := by
  cases h : c.rstClearsCounters <;> simp [microRst, h]

/-- The block's own step is no step, or exec of an enabled row on the state, counted as a choice where there were
several. -/
theorem freeStep_cases (c : Config) (s : State) :
    (enabledSteps c s = [] ∧ freeStep c s = .next s) ∨
    (∃ i ∈ enabledSteps c s, freeStep c s = exec i s) ∨
    (∃ i ∈ enabledSteps c s, freeStep c s = exec i s.chosen) := by
  unfold freeStep
  split
  · rename_i h; exact .inl ⟨h, rfl⟩
  · rename_i i h; exact .inr (.inl ⟨i, by simp [h], rfl⟩)
  · rename_i i j more h
    refine .inr (.inr ⟨_, ?_, rfl⟩)
    have hlt : Config.freeChoice s.choices % (more.length + 2) < (i :: j :: more).length := by
      simpa using Nat.mod_lt _ (Nat.succ_pos _)
    rw [h, List.getD_eq_getElem _ _ hlt]
    exact List.getElem_mem hlt

/-- The step a row turn names: exec of the decoded row, or a refusal. -/
theorem runRow_cases (f : Format) (b : Byte) (s : State) :
    (∃ i, decode f b = .instr i ∧ runRow f b s = exec i s) ∨
    (∃ e, decode f b = .rejected e ∧ runRow f b s = .refused .undecodable) := by
  unfold runRow
  cases h : decode f b with
  | instr i => exact .inl ⟨i, rfl, rfl⟩
  | rejected e => exact .inr ⟨e, rfl, rfl⟩

/-- What exec can do when it answers a next state: the one fact every invariant of the machine is derived from. -/
theorem exec_next_cases {i : Instr} {s t : State} (h : exec i s = .next t) :
    (i = .nop ∧ t = s) ∨
    (i = .por ∧ t = powerOnReset s) ∨
    (i = .start ∧ s.pending .start = true ∧ t = microStart s) ∨
    (i = .rst ∧ s.pending .rst = true ∧ t = microRst Config.block s) ∨
    (i = .stop ∧ s.pending .stop = true ∧ t = microStop s) ∨
    (i = .tick ∧ tickEnabled .idle s = true ∧ t = wholeTick Config.block s) ∨
    (i = tickRow s.tph ∧ tickEnabled s.tph s = true ∧ t = microTick Config.block s) ∨
    (advEnabled .idle s = true ∧ t = wholeAdv Config.block s ∧
      i ∈ ([.adv, .advD0, .advD1, .advD2, .advD3, .advColon, .advClamp5, .advClamp67 6, .advClamp67 7] :
        List Instr)) ∨
    (i ≠ .tick ∧ i ≠ .start ∧ i ≠ .por ∧ (∀ ph, i ≠ tickRow ph) ∧
      advEnabled s.aph s = true ∧ t = microAdv Config.block s) := by
  cases i
  case nop => left; simp_all [exec, execNop]
  case por => right; left; simp_all [exec, execPor]
  case start => right; right; left; simpa [exec, execStart, whenEnabled_eq_next, buttonEnabled_block] using h
  case rst =>
    right; right; right; left; simpa [exec, execRst, whenEnabled_eq_next, buttonEnabled_block] using h
  case stop =>
    right; right; right; right; left
    simpa [exec, execStop, whenEnabled_eq_next, buttonEnabled_block] using h
  case tick =>
    right; right; right; right; right; left; simpa [exec, execTick, whenEnabled_eq_next] using h
  case tickK0 | tickK1 | tickK2 | tickK3 | tickK4 | tickK5 | tickK6 | tickK7 | tickK8 =>
    right; right; right; right; right; right; left
    simp only [exec, execTickK0, execTickK1, execTickK2, execTickK3, execTickK4, execTickK5, execTickK6,
      execTickK7, execTickK8, whenEnabled_eq_next] at h
    obtain ⟨he, rfl⟩ := h
    have hp := (tickEnabled_iff.mp he).1
    simp [hp, he, tickRow, microTick]
  case adv | advD0 | advD1 | advD2 | advD3 | advColon | advClamp5 =>
    right; right; right; right; right; right; right; left
    simp only [exec, execAdv, execAdvD0, execAdvD1, execAdvD2, execAdvD3, execAdvColon, execAdvClamp5,
      execSubroutine, whenEnabled_eq_next, Bool.and_eq_true] at h
    simp_all
  case advClamp67 c =>
    right; right; right; right; right; right; right; left
    simp only [exec, execAdvClamp67, execSubroutine, whenEnabled_eq_next, Bool.and_eq_true,
      Bool.or_eq_true, beq_iff_eq] at h
    obtain ⟨⟨he, hc, -⟩, rfl⟩ := h
    rcases hc with rfl | rfl <;> simp [he]
  case advA0 | advA1 | advA2 | advA3 | advA4 | advA5 =>
    right; right; right; right; right; right; right; right
    simp only [exec, execAdvA0, execAdvA1, execAdvA2, execAdvA3, execAdvA4, execAdvA5,
      whenEnabled_eq_next] at h
    obtain ⟨he, rfl⟩ := h
    have hp := (advEnabled_iff.mp he).2.2.1
    refine ⟨by simp, by simp, by simp, fun ph => by cases ph <;> simp [tickRow], ?_, ?_⟩ <;>
      simp [hp, he, microAdv]
  case d3decGen07 | d3dec8 | d3dec9 | d3decGenAB | d3decGenCD | d3decGenE | d3decF =>
    right; right; right; right; right; right; right; right
    simp only [exec, execD3decGen07, execD3dec8, execD3dec9, execD3decGenAB, execD3decGenCD, execD3decGenE,
      execD3decF, execD3Row, whenEnabled_eq_next, Bool.and_eq_true] at h
    obtain ⟨⟨⟨⟨he, -⟩, -⟩, -⟩, rfl⟩ := h
    have hp := (advEnabled_iff.mp he).2.2.1
    refine ⟨by simp, by simp, by simp, fun ph => by cases ph <;> simp [tickRow], ?_, ?_⟩ <;>
      simp [hp, he, microAdv]
  all_goals
    right; right; right; right; right; right; right; right
    simp only [exec, execEnc0, execEnc1, execEnc2, execEnc3, execEnc4, execEnc5, execEnc6, execEnc7, execEnc8,
      execEnc9, execEncOorAB, execEncOorCF, execEncRow, whenEnabled_eq_next, Bool.and_eq_true] at h
    obtain ⟨⟨⟨⟨he, -⟩, -⟩, -⟩, rfl⟩ := h
    have hp := (advEnabled_iff.mp he).2.2.1
    refine ⟨by simp, by simp, by simp, fun ph => by cases ph <;> simp [tickRow], ?_, ?_⟩ <;>
      simp [hp, he, microAdv]

/-- exec never answers a fault (rule R170). -/
theorem exec_ne_fault (i : Instr) (s : State) (r : Fault) : exec i s ≠ .fault r := by
  cases r

end Sys2Proof.Machine
end

