-- ==== Sys2Proof/Laws/PerInstr.lean ====
section
/-! SUPPORT. Facts about each row of the table as syntax, one lemma per constructor. -/

namespace Sys2Proof.Laws.RowBits

/-- The bits the encoder writes for a well-formed row have the row's format and meet its mask and match. -/
def Statement (i : Instr) : Prop := i.wf = true → i.row.fits (encode i).1 (encode i).2 = true

theorem tick : Statement .tick := fun _ => by decide

theorem adv : Statement .adv := fun _ => by decide

theorem start : Statement .start := fun _ => by decide

theorem rst : Statement .rst := fun _ => by decide

theorem stop : Statement .stop := fun _ => by decide

theorem nop : Statement .nop := fun _ => by decide

theorem advD0 : Statement .advD0 := fun _ => by decide

theorem advD1 : Statement .advD1 := fun _ => by decide

theorem advD2 : Statement .advD2 := fun _ => by decide

theorem advD3 : Statement .advD3 := fun _ => by decide

theorem advColon : Statement .advColon := fun _ => by decide

theorem advClamp5 : Statement .advClamp5 := fun _ => by decide

theorem advClamp67 (cur : Cursor) : Statement (.advClamp67 cur) := by
  revert cur; unfold Statement; decide

theorem d3decGen07 (f : Nibble) : Statement (.d3decGen07 f) := by
  revert f; unfold Statement; decide

theorem d3dec8 : Statement .d3dec8 := fun _ => by decide

theorem d3dec9 : Statement .d3dec9 := fun _ => by decide

theorem d3decGenAB (f : Nibble) : Statement (.d3decGenAB f) := by
  revert f; unfold Statement; decide

theorem d3decGenCD (f : Nibble) : Statement (.d3decGenCD f) := by
  revert f; unfold Statement; decide

theorem d3decGenE : Statement .d3decGenE := fun _ => by decide

theorem d3decF : Statement .d3decF := fun _ => by decide

theorem enc0 : Statement .enc0 := fun _ => by decide

theorem enc1 : Statement .enc1 := fun _ => by decide

theorem enc2 : Statement .enc2 := fun _ => by decide

theorem enc3 : Statement .enc3 := fun _ => by decide

theorem enc4 : Statement .enc4 := fun _ => by decide

theorem enc5 : Statement .enc5 := fun _ => by decide

theorem enc6 : Statement .enc6 := fun _ => by decide

theorem enc7 : Statement .enc7 := fun _ => by decide

theorem enc8 : Statement .enc8 := fun _ => by decide

theorem enc9 : Statement .enc9 := fun _ => by decide

theorem encOorAB (d : Nibble) : Statement (.encOorAB d) := by
  revert d; unfold Statement; decide

theorem encOorCF (d : Nibble) : Statement (.encOorCF d) := by
  revert d; unfold Statement; decide

theorem tickK0 : Statement .tickK0 := fun _ => by decide

theorem tickK1 : Statement .tickK1 := fun _ => by decide

theorem tickK2 : Statement .tickK2 := fun _ => by decide

theorem tickK3 : Statement .tickK3 := fun _ => by decide

theorem tickK4 : Statement .tickK4 := fun _ => by decide

theorem tickK5 : Statement .tickK5 := fun _ => by decide

theorem tickK6 : Statement .tickK6 := fun _ => by decide

theorem tickK7 : Statement .tickK7 := fun _ => by decide

theorem tickK8 : Statement .tickK8 := fun _ => by decide

theorem advA0 : Statement .advA0 := fun _ => by decide

theorem advA1 : Statement .advA1 := fun _ => by decide

theorem advA2 : Statement .advA2 := fun _ => by decide

theorem advA3 : Statement .advA3 := fun _ => by decide

theorem advA4 : Statement .advA4 := fun _ => by decide

theorem advA5 : Statement .advA5 := fun _ => by decide

theorem por : Statement .por := fun _ => by decide

end Sys2Proof.Laws.RowBits
end

