-- ==== Sys2Proof/Laws/Step.lean ====
section
/-! SUPPORT. What a step of the machine can do. -/

namespace Sys2Proof.Machine

theorem popTurn_eq {s : State} {t : Turn} {more : List Turn} (h : s.agenda = t :: more) :
    s.popTurn = { s with agenda := more } := by
  simp [State.popTurn, h]

theorem step_of_empty {s : State} (h : s.agenda = []) : step s = freeStep Config.block s := by
  simp [step, takeTurn, h]

theorem step_of_turn {s : State} {t : Turn} {more : List Turn} (h : s.agenda = t :: more) :
    step s = runTurn t { s with agenda := more } := by
  simp [step, takeTurn, h, popTurn_eq h]

/-- A step that answers a next state is no step, a request of the environment, or exec of one row, on the state
whose agenda (and, for a free choice, whose choice number) has moved on. -/
theorem step_next_cases {s t : State} (h : step s = .next t) :
    ∃ u : State, (∃ more n, u = { s with agenda := more, choices := n }) ∧
      (t = u ∨ (∃ v, t = u.raise v) ∨ ∃ i, exec i u = .next t) := by
  have free : ∀ w : State, (∃ more, w = { s with agenda := more }) → freeStep Config.block w = .next t →
      ∃ u : State, (∃ more n, u = { s with agenda := more, choices := n }) ∧
        (t = u ∨ (∃ v, t = u.raise v) ∨ ∃ i, exec i u = .next t) := by
    rintro w ⟨more, rfl⟩ hw
    rcases freeStep_cases Config.block { s with agenda := more } with ⟨-, he⟩ | ⟨i, -, he⟩ | ⟨i, -, he⟩
    · rw [he] at hw
      exact ⟨_, ⟨more, s.choices, rfl⟩, .inl (by cases hw; rfl)⟩
    · exact ⟨_, ⟨more, s.choices, rfl⟩, .inr (.inr ⟨i, he ▸ hw⟩)⟩
    · exact ⟨_, ⟨more, s.choices + 1, rfl⟩, .inr (.inr ⟨i, he ▸ hw⟩)⟩
  cases ha : s.agenda with
  | nil =>
    rw [step_of_empty ha] at h
    exact free s ⟨s.agenda, rfl⟩ h
  | cons turn more =>
    rw [step_of_turn ha] at h
    cases turn with
    | row f b =>
      rcases runRow_cases f b { s with agenda := more } with ⟨i, -, hi⟩ | ⟨e, -, hi⟩
      · exact ⟨_, ⟨more, s.choices, rfl⟩, .inr (.inr ⟨i, by simpa [runTurn, hi] using h⟩)⟩
      · simp [runTurn, hi] at h
    | req v =>
      refine ⟨_, ⟨more, s.choices, rfl⟩, .inr (.inl ⟨v, ?_⟩)⟩
      simpa [runTurn, eq_comm] using h
    | step => exact ⟨_, ⟨more, s.choices, rfl⟩, .inr (.inr ⟨_, h⟩)⟩
    | step2 => exact ⟨_, ⟨more, s.choices, rfl⟩, .inr (.inr ⟨_, h⟩)⟩
    | free => exact free _ ⟨more, rfl⟩ h

end Sys2Proof.Machine
end

