-- ==== Sys2Proof/Laws/Runs.lean ====
section
/-! SUPPORT. What the moves of a run keep, what each step of the block works off, and how weak fairness is used. -/

namespace Sys2Proof.Machine

open Host (Outcome)

/-! ## Pending bits -/

@[simp] theorem pending_raise (s : State) (v : Requests) (r : Source) :
    (s.raise v).pending r = (s.pending r || v.getLsbD (pendBit r)) := by
  simp [State.pending]

@[simp] theorem pending_clear (s : State) (q r : Source) :
    (s.clear q).pending r = (s.pending r && decide (r ≠ q)) := by
  cases q <;> cases r <;> simp [State.pending, State.clear, pendVector, pendBit]

theorem pending_congr {s t : State} (h : t.pend = s.pend) (r : Source) : t.pending r = s.pending r := by
  simp [State.pending, h]

/-! ## One step of the block -/

/-- What a button operation leaves as it was: all but EV, RUN and its own pending bit. -/
theorem button_keeps {s t : State} {r : Source}
    (h : (r = .start ∧ t = microStart s) ∨ (r = .rst ∧ t = microRst Config.block s) ∨ (r = .stop ∧ t = microStop s)) :
    t.tph = s.tph ∧ t.aph = s.aph ∧ ∀ q, t.pending q = (s.pending q && decide (q ≠ r)) := by
  rcases h with ⟨rfl, rfl⟩ | ⟨rfl, rfl⟩ | ⟨rfl, rfl⟩
  · exact ⟨rfl, rfl, pending_clear s _⟩
  · rcases microRst_cases Config.block s with ⟨-, h⟩ | ⟨-, h⟩ <;> rw [h] <;> exact ⟨rfl, rfl, pending_clear s _⟩
  · exact ⟨rfl, rfl, pending_clear s _⟩

/-- A terminal test leaves APH and PEND, and ends the TICK or goes on to the next phase. -/
theorem terminalTest_phases (c : Config) (made : Bool) (next : TickPhase) (s : State) :
    (terminalTest c made next s).aph = s.aph ∧ (terminalTest c made next s).pend = s.pend ∧
    ((terminalTest c made next s).tph = .idle ∨ (terminalTest c made next s).tph = next) := by
  rcases terminalTest_cases c made next s with ⟨-, -, h⟩ | ⟨-, h⟩ <;> simp [h]

/-- What a micro-operation of TICK does to the phases and the pending bits: K0 clears PEND[4] and goes on or ends,
the others go on or end; APH stays. -/
theorem microTick_phases (c : Config) (s : State) :
    (microTick c s).aph = s.aph ∧
    (∀ q, (microTick c s).pending q = (s.pending q && !(decide (s.tph = .idle) && decide (q = .slow)))) ∧
    ((microTick c s).tph = .idle ∨
      (s.tph = .idle ∧ (microTick c s).tph = .k1) ∨
      (s.tph ≠ .idle ∧ (microTick c s).tph.remaining < s.tph.remaining)) := by
  cases ht : s.tph
  case idle =>
    refine ⟨?_, fun q => ?_, ?_⟩
    · cases hr : s.run <;> simp [microTick, ht, microK0, hr]
    · have h : (microTick c s).pend = (s.clear .slow).pend := by
        cases hr : s.run <;> simp [microTick, ht, microK0, hr]
      simp [pending_congr h q]
    · cases hr : s.run <;> simp [microTick, ht, microK0, hr]
  case k1 | k3 | k5 | k7 =>
    simp only [microTick, ht, microK1, microK3, microK5, microK7]
    obtain ⟨h1, h2, h3⟩ := terminalTest_phases c _ _ s
    refine ⟨h1, fun q => by simp [pending_congr h2 q], ?_⟩
    rcases h3 with h3 | h3 <;> simp [h3, TickPhase.remaining]
  case k2 => simp [microTick, ht, microK2, TickPhase.remaining, State.pending]
  case k4 => simp only [microTick, ht, microK4]; split <;> simp [TickPhase.remaining, State.pending]
  case k6 => simp only [microTick, ht, microK6]; split <;> simp [TickPhase.remaining, State.pending]
  case k8 => simp only [microTick, ht, microK8]; split <;> simp [State.pending]

/-- What a micro-operation of ADV does to the phases and the pending bits: A0 clears PEND[3] and goes to A1, the
others go on or end; TPH stays. -/
theorem microAdv_phases (c : Config) (s : State) :
    (microAdv c s).tph = s.tph ∧
    (∀ q, (microAdv c s).pending q = (s.pending q && !(decide (s.aph = .idle) && decide (q = .fast)))) ∧
    ((s.aph = .idle ∧ (microAdv c s).aph = .a1) ∨
      (s.aph ≠ .idle ∧ (microAdv c s).aph.remaining < s.aph.remaining)) := by
  cases ha : s.aph
  case a3 =>
    rcases microA3_cases c s with ⟨-, h⟩ | ⟨-, pattern, -, h⟩ | ⟨-, -, h⟩ <;>
      simp [microAdv, ha, h, AdvPhase.remaining, State.pending]
  case idle =>
    have h : (microAdv c s).pend = (s.clear .fast).pend := by simp [microAdv, ha, microA0]
    refine ⟨by simp [microAdv, ha, microA0], fun q => by simp [pending_congr h q], ?_⟩
    simp [microAdv, ha, microA0]
  all_goals simp [microAdv, ha, microA1, microA2, microA4, microA5, AdvPhase.remaining, State.pending]

/-- What one step of the block can be: the operation of a pending button, the micro-operation TPH selects, or the
micro-operation APH selects. -/
theorem take_cases {i : Instr} {s t : State} (h : (Move.take i).leads s t) :
    (∃ r, s.pending r = true ∧ ((r = .start ∧ i = .start ∧ t = microStart s) ∨
        (r = .rst ∧ i = .rst ∧ t = microRst Config.block s) ∨ (r = .stop ∧ i = .stop ∧ t = microStop s))) ∨
    (i = tickRow s.tph ∧ tickEnabled s.tph s = true ∧ t = microTick Config.block s) ∨
    (i = advRow s.aph ∧ advEnabled s.aph s = true ∧ t = microAdv Config.block s) := by
  obtain ⟨hi, he⟩ := h
  simp only [enabledSteps, buttonStep, tickSteps, advSteps, buttonEnabled_block, List.mem_append,
    List.mem_ite_nil_right, List.mem_singleton] at hi
  rcases hi with (((⟨hp, rfl⟩ | ⟨hp, rfl⟩) | ⟨hp, rfl⟩) | ⟨hp, rfl⟩) | ⟨hp, rfl⟩
  · exact .inl ⟨.start, hp, .inl ⟨rfl, rfl, by
      simpa [exec, execStart, buttonEnabled_block, hp, eq_comm] using he⟩⟩
  · exact .inl ⟨.rst, hp, .inr (.inl ⟨rfl, rfl, by
      simpa [exec, execRst, buttonEnabled_block, hp, eq_comm] using he⟩)⟩
  · exact .inl ⟨.stop, hp, .inr (.inr ⟨rfl, rfl, by
      simpa [exec, execStop, buttonEnabled_block, hp, eq_comm] using he⟩)⟩
  · refine .inr (.inl ⟨rfl, hp, ?_⟩)
    cases ht : s.tph <;> rw [ht] at hp he <;>
      simpa [exec, tickRow, execTickK0, execTickK1, execTickK2, execTickK3, execTickK4, execTickK5, execTickK6,
        execTickK7, execTickK8, hp, microTick, ht, eq_comm] using he
  · refine .inr (.inr ⟨rfl, hp, ?_⟩)
    cases ha : s.aph <;> rw [ha] at hp he <;>
      simpa [exec, advRow, execAdvA0, execAdvA1, execAdvA2, execAdvA3, execAdvA4, execAdvA5, hp, microAdv, ha,
        eq_comm] using he

/-! ## The debt of the slow source -/

/-- A micro-operation of TICK lowers the debt. -/
theorem microTick_tickDebt {s : State} (he : tickEnabled s.tph s = true) :
    (microTick Config.block s).tickDebt < s.tickDebt := by
  obtain ⟨-, h2, h3⟩ := microTick_phases Config.block s
  by_cases ht : s.tph = .idle
  · have hs := (tickEnabled_iff.mp he).2 ht
    have hp : (microTick Config.block s).pending .slow = false := by simp [h2, ht]
    simp only [ht, ne_eq, not_true, false_and, or_false, true_and] at h3
    rcases h3 with h3 | h3 <;>
      simp [State.tickDebt, State.owes, hp, h3, ht, hs, TickPhase.remaining, sourceCost]
  · have hp : (microTick Config.block s).pending .slow = s.pending .slow := by simp [h2, ht]
    have h4 : (microTick Config.block s).tph.remaining < s.tph.remaining := by
      rcases h3 with h3 | ⟨h3, -⟩ | ⟨-, h3⟩
      · rw [h3]
        revert ht
        cases s.tph <;> simp [TickPhase.remaining]
      · exact absurd h3 ht
      · exact h3
    simp only [State.tickDebt, State.owes, hp]
    omega

/-- Nothing is owed to the slow source exactly where no TICK is in progress or pending. -/
theorem tickDebt_eq_zero {s : State} : s.tickDebt = 0 ↔ s.tph = .idle ∧ s.pending .slow = false := by
  cases ht : s.tph <;> cases hp : s.pending .slow <;>
    simp [State.tickDebt, State.owes, ht, hp, TickPhase.remaining, sourceCost]

/-- No move raises the debt but a request of the slow source. -/
theorem tickDebt_le {m : Move} {s t : State} (h : m.leads s t)
    (calm : ∀ v, m = .raise v → v.getLsbD (pendBit .slow) = false) : t.tickDebt ≤ s.tickDebt := by
  cases m with
  | raise v =>
    obtain rfl : t = s.raise v := h
    have hp : (s.raise v).pending .slow = s.pending .slow := by rw [pending_raise, calm v rfl, Bool.or_false]
    simp [State.tickDebt, State.owes, hp]
  | por =>
    obtain rfl : powerOnReset s = t := by simpa [Move.leads, exec, execPor] using h
    have : (powerOnReset s).tickDebt = 0 := tickDebt_eq_zero.mpr ⟨rfl, by simp [State.pending, powerOnReset, State.reset]⟩
    omega
  | take i =>
    rcases take_cases h with ⟨r, -, hr⟩ | ⟨-, he, rfl⟩ | ⟨-, -, rfl⟩
    · obtain ⟨h1, -, h3⟩ := button_keeps (s := s) (t := t) (r := r) (by tauto)
      have hp : t.pending .slow = s.pending .slow := by
        rw [h3]
        rcases hr with ⟨rfl, -⟩ | ⟨rfl, -⟩ | ⟨rfl, -⟩ <;> simp
      simp [State.tickDebt, State.owes, h1, hp]
    · exact (microTick_tickDebt he).le
    · obtain ⟨h1, h2, -⟩ := microAdv_phases Config.block s
      simp [State.tickDebt, State.owes, h1, h2]

/-! ## Work: while the environment is silent the block comes to rest -/

/-- Every step of the block works something off (rules R176 and R213). -/
theorem take_works_off {i : Instr} {s t : State} (h : (Move.take i).leads s t) : t.work < s.work := by
  rcases take_cases h with ⟨r, hp, hr⟩ | ⟨-, he, rfl⟩ | ⟨-, he, rfl⟩
  · obtain ⟨h1, h2, h3⟩ := button_keeps (s := s) (t := t) (r := r) (by tauto)
    have owes : ∀ q, t.owes q = if q = r then 0 else s.owes q := fun q => by
      by_cases hq : q = r <;> simp [State.owes, h3, hq]
    rcases hr with ⟨rfl, -⟩ | ⟨rfl, -⟩ | ⟨rfl, -⟩ <;> simp [State.work, State.tickDebt, h1, h2, owes] <;>
      simp [State.owes, hp, sourceCost]
  · obtain ⟨h1, h2, -⟩ := microTick_phases Config.block s
    have hd := microTick_tickDebt he
    have owes : ∀ q, q ≠ .slow → (microTick Config.block s).owes q = s.owes q := fun q hq => by
      simp [State.owes, h2, hq]
    simp only [State.work, h1, owes .fast (by simp), owes .start (by simp), owes .rst (by simp),
      owes .stop (by simp)]
    omega
  · obtain ⟨h1, h2, h3⟩ := microAdv_phases Config.block s
    by_cases ha : s.aph = .idle
    · have hs := (advEnabled_iff.mp he).2.2.2 ha
      have owes : ∀ q, (microAdv Config.block s).owes q = if q = .fast then 0 else s.owes q := fun q => by
        by_cases hq : q = .fast <;> simp [State.owes, h2, ha, hq]
      simp only [ha, ne_eq, not_true, false_and, or_false, true_and] at h3
      simp only [State.work, State.tickDebt, h1, owes, h3, ha, AdvPhase.remaining]
      simp [State.owes, hs, sourceCost]
    · have owes : ∀ q, (microAdv Config.block s).owes q = s.owes q := fun q => by
        simp [State.owes, h2, ha]
      have h4 : (microAdv Config.block s).aph.remaining < s.aph.remaining := by tauto
      simp only [State.work, State.tickDebt, h1, owes]
      omega

/-- At most 31 block steps are ever to come without a new request. -/
theorem work_le (s : State) : s.work ≤ 31 := by
  have owes : ∀ r, s.owes r ≤ sourceCost r := fun r => by unfold State.owes; split <;> simp
  have h1 := owes .slow
  have h2 := owes .fast
  have h3 := owes .start
  have h4 := owes .rst
  have h5 := owes .stop
  have ht : s.tph.remaining ≤ 8 := by cases s.tph <;> simp [TickPhase.remaining]
  have ha : s.aph.remaining ≤ 5 := by cases s.aph <;> simp [AdvPhase.remaining]
  simp only [State.work, State.tickDebt, sourceCost] at *
  omega

/-- With no turn to come a step of the machine works something off, unless no step is enabled and nothing changes: so
the machine's own run with a silent environment passes over no enabled step for ever, whatever the free choices are. -/
theorem step_of_silent_works_off {s t : State} (ha : s.agenda = []) (h : step s = .next t) :
    (enabledSteps Config.block s = [] ∧ t = s) ∨ t.work < s.work := by
  rw [step_of_empty ha] at h
  rcases freeStep_cases Config.block s with ⟨he, h'⟩ | ⟨i, hi, h'⟩ | ⟨i, hi, h'⟩
  · rw [h'] at h
    exact .inl ⟨he, by cases h; rfl⟩
  · exact .inr (take_works_off ⟨hi, h' ▸ h⟩)
  · exact .inr (take_works_off (s := s.chosen) ⟨hi, h' ▸ h⟩)

/-! ## Using weak fairness -/

/-- What is enabled and stays so until it is taken or the power fails is eventually one of the two. -/
theorem FairRun.eventually {state : Nat → State} {move : Nat → Move} (run : FairRun state move) {i : Instr}
    {P : State → Prop} (enabled : ∀ s, P s → i ∈ enabledSteps Config.block s) {n : Nat}
    (keeps : ∀ k s t, n ≤ k → P s → (move k).leads s t → move k = .take i ∨ move k = .por ∨ P t)
    (start : P (state n)) : ∃ m, n ≤ m ∧ (move m = .take i ∨ move m = .por) := by
  by_contra hn
  push Not at hn
  have all : ∀ m, n ≤ m → P (state m) := fun m hm => by
    induction m, hm using Nat.le_induction with
    | base => exact start
    | succ k hk ih =>
      rcases keeps k _ _ hk ih (run.leads k) with h | h | h
      · exact absurd h (hn k hk).1
      · exact absurd h (hn k hk).2
      · exact h
  obtain ⟨m, hm, he⟩ := run.fair i n fun m hm => enabled _ (all m hm)
  exact (hn m hm).1 he

/-- A pending button stays pending until it is taken or the power fails (rule R165). -/
theorem button_stays {m : Move} {s t : State} {r : Source} {i : Instr}
    (hi : (r = .start ∧ i = .start) ∨ (r = .rst ∧ i = .rst) ∨ (r = .stop ∧ i = .stop))
    (hp : s.pending r = true) (h : m.leads s t) : m = .take i ∨ m = .por ∨ t.pending r = true := by
  cases m with
  | raise v => right; right; rw [show t = s.raise v from h, pending_raise, hp]; rfl
  | por => exact .inr (.inl rfl)
  | take j =>
    rcases take_cases h with ⟨q, -, hq⟩ | ⟨-, -, rfl⟩ | ⟨-, -, rfl⟩
    · by_cases hqr : r = q
      · left; subst hqr; rcases hi with ⟨rfl, rfl⟩ | ⟨rfl, rfl⟩ | ⟨rfl, rfl⟩ <;> simp_all
      · obtain ⟨-, -, h3⟩ := button_keeps (s := s) (t := t) (r := q) (by tauto)
        right; right; rw [h3, hp]; simpa using hqr
    · right; right
      rw [(microTick_phases Config.block s).2.1, hp]
      rcases hi with ⟨rfl, -⟩ | ⟨rfl, -⟩ | ⟨rfl, -⟩ <;> simp
    · right; right
      rw [(microAdv_phases Config.block s).2.1, hp]
      rcases hi with ⟨rfl, -⟩ | ⟨rfl, -⟩ | ⟨rfl, -⟩ <;> simp

/-- The micro-operation of TICK that is next stays next until it is taken or the power fails. -/
theorem tick_stays {m : Move} {s t : State} (he : tickEnabled s.tph s = true) (h : m.leads s t) :
    m = .take (tickRow s.tph) ∨ m = .por ∨ (t.tph = s.tph ∧ tickEnabled t.tph t = true) := by
  have hs := (tickEnabled_iff.mp he).2
  cases m with
  | raise v =>
    obtain rfl : t = s.raise v := h
    exact .inr (.inr ⟨rfl, tickEnabled_iff.mpr ⟨rfl, fun ht => by rw [pending_raise, hs ht]; rfl⟩⟩)
  | por => exact .inr (.inl rfl)
  | take j =>
    rcases take_cases h with ⟨q, -, hq⟩ | ⟨rfl, -, -⟩ | ⟨-, ha, -⟩
    · obtain ⟨h1, -, h3⟩ := button_keeps (s := s) (t := t) (r := q) (by tauto)
      refine .inr (.inr ⟨h1, tickEnabled_iff.mpr ⟨rfl, fun ht => ?_⟩⟩)
      rw [h3, hs (h1 ▸ ht)]
      rcases hq with ⟨rfl, -⟩ | ⟨rfl, -⟩ | ⟨rfl, -⟩ <;> rfl
    · exact .inl rfl
    · obtain ⟨ht, hn, -⟩ := advEnabled_iff.mp ha
      rw [hs ht] at hn
      cases hn

/-- Where an ADV is owed, its next micro-operation stays the one owed until it is taken or the power fails,
whatever TICKs and buttons do in between (rules R59 (b) and R175). -/
theorem adv_stays {m : Move} {s t : State} (ho : s.aph ≠ .idle ∨ s.pending .fast = true) (h : m.leads s t) :
    m = .take (advRow s.aph) ∨ m = .por ∨
      (t.aph = s.aph ∧ (t.aph ≠ .idle ∨ t.pending .fast = true)) := by
  cases m with
  | raise v =>
    obtain rfl : t = s.raise v := h
    refine .inr (.inr ⟨rfl, ho.imp id fun hf => by rw [pending_raise, hf]; rfl⟩)
  | por => exact .inr (.inl rfl)
  | take j =>
    rcases take_cases h with ⟨q, -, hq⟩ | ⟨-, -, rfl⟩ | ⟨rfl, -, -⟩
    · obtain ⟨-, h2, h3⟩ := button_keeps (s := s) (t := t) (r := q) (by tauto)
      refine .inr (.inr ⟨h2, h2 ▸ ho.imp id fun hf => ?_⟩)
      rw [h3, hf]
      rcases hq with ⟨rfl, -⟩ | ⟨rfl, -⟩ | ⟨rfl, -⟩ <;> rfl
    · obtain ⟨h1, h2, -⟩ := microTick_phases Config.block s
      refine .inr (.inr ⟨h1, h1 ▸ ho.imp id fun hf => ?_⟩)
      simp [h2, hf]
    · exact .inl rfl

end Sys2Proof.Machine
end

