-- ==== Sys2Proof/Tests/Slice0.lean ====
section
/-! SUPPORT. The model's own tests: ill-formed terms, words written out from the spec's tables, one step of each row
on vectors of spec/95_test_vectors.md (each test names its section), and for every obligation with hypotheses a
state that meets them. -/

namespace Sys2Proof.Tests

open Sys2Proof Sys2Proof.Machine

/-! ## Helpers -/

/-- The state an outcome answers, if any. -/
def after (o : Host.Outcome State Fault Refusal) : Option State :=
  match o with
  | .next s => some s
  | .fault _ => none
  | .refused _ => none

theorem exists_next {o : Host.Outcome State Fault Refusal} (h : (after o).isSome = true) : ∃ t, o = .next t := by
  cases o with
  | next t => exact ⟨t, rfl⟩
  | fault r => cases h
  | refused r => cases h

/-- The refusal an outcome answers, if any. -/
def refusal (o : Host.Outcome State Fault Refusal) : Option Refusal :=
  match o with
  | .next _ => none
  | .fault _ => none
  | .refused r => some r

/-- The tuple (EV, RUN, SUB, SEC) of the spec's vectors. -/
def tuple (s : State) : EvWord × Bool × Nibble × Nibble := (s.ev, s.run, s.sub, s.sec)

/-- The counter at a tuple, with a request vector, all else as after POR. -/
def counter (ev : EvWord) (run : Bool) (sub sec : Nibble) (pend : Requests) : State :=
  { State.reset with ev := ev, run := run, sub := sub, sec := sec, pend := pend }

/-- A TICK in progress at a phase. -/
def inTick (ev : EvWord) (run : Bool) (sub sec : Nibble) (ph : TickPhase) (c1 c2 : Bool) : State :=
  { State.reset with ev := ev, run := run, sub := sub, sec := sec, tph := ph, c1 := c1, c2 := c2 }

/-- An ADV requested with EV and CUR given. -/
def drawing (ev : EvWord) (cur : Cursor) : State := { State.reset with ev := ev, cur := cur, pend := 0x08 }

/-- An ADV in progress at a phase, position and digit. -/
def inAdv (ev : EvWord) (ph : AdvPhase) (p : Position) (d : Nibble) : State :=
  { State.reset with ev := ev, aph := ph, p := p, d := d, cur := BitVec.ofNat 3 (Position.index p) }

/-- SEG, DSEL and CUR, what the vectors of an ADV show. -/
def face (s : State) : Byte × Lines × Cursor := (s.seg, s.dsel, s.cur)

/-! ## Ill-formed terms (spec/opcode_table.json: operands outside a row's match and mask) -/

theorem test_illformed_clamp67 : (Instr.advClamp67 3).wf = false := by decide
theorem test_illformed_d3decGen07 : (Instr.d3decGen07 8).wf = false := by decide
theorem test_illformed_d3decGenAB : (Instr.d3decGenAB 0xC).wf = false := by decide
theorem test_illformed_d3decGenCD : (Instr.d3decGenCD 0xE).wf = false := by decide
theorem test_illformed_encOorAB : (Instr.encOorAB 9).wf = false := by decide
theorem test_illformed_encOorCF : (Instr.encOorCF 11).wf = false := by decide

/-! ## Every row from a word written out from the spec -/

/-- The table of rule R76, and other requests standing beside the one served. -/
theorem test_decode_pend :
    decode .pend 0b00010000 = .instr .tick ∧ decode .pend 0b00001000 = .instr .adv ∧
    decode .pend 0b00000100 = .instr .start ∧ decode .pend 0b00000010 = .instr .rst ∧
    decode .pend 0b00000001 = .instr .stop ∧ decode .pend 0b00000000 = .instr .nop ∧
    decode .pend 0b00011010 = .instr .tick ∧ decode .pend 0b00000111 = .instr .start := by decide

/-- The table of rule R77. -/
theorem test_decode_cur :
    decode .cur 0b000 = .instr .advD0 ∧ decode .cur 0b001 = .instr .advD1 ∧
    decode .cur 0b010 = .instr .advD2 ∧ decode .cur 0b011 = .instr .advD3 ∧
    decode .cur 0b100 = .instr .advColon ∧ decode .cur 0b101 = .instr .advClamp5 ∧
    decode .cur 0b110 = .instr (.advClamp67 6) ∧ decode .cur 0b111 = .instr (.advClamp67 7) := by decide

/-- The table of section 2.2. -/
theorem test_decode_f3 :
    decode .f3 0b0000 = .instr (.d3decGen07 0) ∧ decode .f3 0b0111 = .instr (.d3decGen07 7) ∧
    decode .f3 0b1000 = .instr .d3dec8 ∧ decode .f3 0b1001 = .instr .d3dec9 ∧
    decode .f3 0b1010 = .instr (.d3decGenAB 0xA) ∧ decode .f3 0b1011 = .instr (.d3decGenAB 0xB) ∧
    decode .f3 0b1100 = .instr (.d3decGenCD 0xC) ∧ decode .f3 0b1101 = .instr (.d3decGenCD 0xD) ∧
    decode .f3 0b1110 = .instr .d3decGenE ∧ decode .f3 0b1111 = .instr .d3decF := by decide

/-- The table of section 2.1. -/
theorem test_decode_digit :
    decode .digit 0b0000 = .instr .enc0 ∧ decode .digit 0b0001 = .instr .enc1 ∧
    decode .digit 0b0010 = .instr .enc2 ∧ decode .digit 0b0011 = .instr .enc3 ∧
    decode .digit 0b0100 = .instr .enc4 ∧ decode .digit 0b0101 = .instr .enc5 ∧
    decode .digit 0b0110 = .instr .enc6 ∧ decode .digit 0b0111 = .instr .enc7 ∧
    decode .digit 0b1000 = .instr .enc8 ∧ decode .digit 0b1001 = .instr .enc9 ∧
    decode .digit 0b1010 = .instr (.encOorAB 10) ∧ decode .digit 0b1011 = .instr (.encOorAB 11) ∧
    decode .digit 0b1100 = .instr (.encOorCF 12) ∧ decode .digit 0b1111 = .instr (.encOorCF 15) := by decide

/-- The ordinals of rule R83. -/
theorem test_decode_tph :
    decode .tph 0b0000 = .instr .tickK0 ∧ decode .tph 0b0001 = .instr .tickK1 ∧
    decode .tph 0b0010 = .instr .tickK2 ∧ decode .tph 0b0011 = .instr .tickK3 ∧
    decode .tph 0b0100 = .instr .tickK4 ∧ decode .tph 0b0101 = .instr .tickK5 ∧
    decode .tph 0b0110 = .instr .tickK6 ∧ decode .tph 0b0111 = .instr .tickK7 ∧
    decode .tph 0b1000 = .instr .tickK8 ∧ decode .tph 0b1001 = .rejected .noSuchPhase := by decide

theorem test_decode_aph :
    decode .aph 0b000 = .instr .advA0 ∧ decode .aph 0b001 = .instr .advA1 ∧
    decode .aph 0b010 = .instr .advA2 ∧ decode .aph 0b011 = .instr .advA3 ∧
    decode .aph 0b100 = .instr .advA4 ∧ decode .aph 0b101 = .instr .advA5 ∧
    decode .aph 0b110 = .rejected .noSuchPhase := by decide

/-- Rule R38: por_n is active-low. -/
theorem test_decode_por :
    decode .por 0b0 = .instr .por ∧ decode .por 0b1 = .rejected .resetInactive := by decide

/-- A trace word: the row's bits, then the number of its format; and what names no row. -/
theorem test_decode_trace_word :
    decodeTableWord 8 0x10 = some .tick ∧ decodeTableWord 16 0x0105 = some .advClamp5 ∧
    decodeTableWord 16 0x0408 = some .tickK8 ∧ decodeTableWord 16 0x0600 = some .por ∧
    decodeTableWord 8 0x20 = none ∧ decodeTableWord 16 0x0700 = none := by decide

/-- A presented row is what the very next step runs. -/
theorem test_presented_row_runs :
    after (step (State.reset.withFetchWord 8 0x04)) =
      some { State.reset with run := true } ∧
    (after (step (State.reset.withFetchWord 16 0x0307))).map (·.seg) = some 0xF8 ∧
    refusal (step (State.reset.withFetchWord 16 0x0700)) = some .undecodable := by decide

/-! ## TICK (section 2.4) -/

/-- Both carries. -/
theorem test_tick_double_carry :
    (after (exec .tick (counter 0x0990 true 9 9 0x10))).map tuple = some (0x1000, true, 0, 0) := by decide

/-- The safety-net mask is skipped where a carry was taken. -/
theorem test_tick_keeps_f0_on_a_carry :
    (after (exec .tick (counter 0x0995 true 9 9 0x10))).map tuple = some (0x1005, true, 0, 0) := by decide

theorem test_tickK0_gate_closed :
    after (exec .tickK0 (counter 0x0250 false 5 2 0x1F)) = some (counter 0x0250 false 5 2 0x0F) := by decide

theorem test_tickK0_gate_open :
    (after (exec .tickK0 (counter 0x0990 true 9 9 0x10))).map (·.tph) = some .k1 := by decide

theorem test_tickK1_at_terminal :
    after (exec .tickK1 (inTick 0x9990 true 3 4 .k1 false false)) = some (counter 0x9990 false 3 4 0) := by decide

theorem test_tickK2_transient :
    after (exec .tickK2 (inTick 0x0990 true 9 9 .k2 false false)) =
      some (inTick 0x09A0 true 10 9 .k3 false false) := by decide

/-- Rule R142: a binary carry out of a field that holds 0xF, and SUB wrapping at 16. -/
theorem test_tickK2_binary_carry :
    after (exec .tickK2 (inTick 0x00F0 true 15 0 .k2 false false)) =
      some (inTick 0x0100 true 0 0 .k3 false false) := by decide

theorem test_tickK3_auto_stop :
    after (exec .tickK3 (inTick 0x9990 true 9 9 .k3 false false)) = some (counter 0x9990 false 9 9 0) := by decide

theorem test_tickK4_carry :
    after (exec .tickK4 (inTick 0x09A0 true 10 9 .k4 false false)) =
      some (inTick 0x0A00 true 0 10 .k5 true false) := by decide

/-- An equality test: SUB above 10 takes no carry. -/
theorem test_tickK4_no_carry_above_ten :
    after (exec .tickK4 (inTick 0x0260 true 12 0 .k4 false false)) =
      some (inTick 0x0260 true 12 0 .k5 false false) := by decide

/-- Rule R136: without the carry the test is not made, even at TERMINAL. -/
theorem test_tickK5_needs_its_carry :
    (after (exec .tickK5 (inTick 0x9990 true 0 0 .k5 false false))).map (·.tph) = some .k6 ∧
    (after (exec .tickK5 (inTick 0x9990 true 0 0 .k5 true false))).map (·.run) = some false := by decide

theorem test_tickK6_carry :
    after (exec .tickK6 (inTick 0x0A00 true 0 10 .k6 true false)) =
      some (inTick 0x1000 true 0 0 .k7 true true) := by decide

/-- Rule R137: wrap-around modulo 2^16, and the carry without C1. -/
theorem test_tickK6_wraps :
    after (exec .tickK6 (inTick 0xFA00 true 0 10 .k6 false false)) =
      some (inTick 0x0000 true 0 0 .k7 false true) := by decide

theorem test_tickK7_needs_its_carry :
    (after (exec .tickK7 (inTick 0x9990 true 0 0 .k7 true false))).map (·.tph) = some .k8 ∧
    (after (exec .tickK7 (inTick 0x9990 true 0 0 .k7 false true))).map (·.run) = some false := by decide

theorem test_tickK8_clears_f0 :
    after (exec .tickK8 (inTick 0x0015 true 1 0 .k8 false false)) = some (counter 0x0010 true 1 0 0) := by decide

theorem test_tickK8_skips_the_mask :
    after (exec .tickK8 (inTick 0x1005 true 0 0 .k8 false true)) = some (counter 0x1005 true 0 0 0) := by decide

/-! ## ADV (section 2.3) -/

theorem test_adv :
    (after (exec .adv (drawing 0x1230 2))).map face = some (0xA4, 0x1B, 3) := by decide
theorem test_advD0 :
    (after (exec .advD0 (drawing 0x4567 0))).map face = some (0xF8, 0x1E, 1) := by decide
theorem test_advD1 :
    (after (exec .advD1 (drawing 0x4567 1))).map face = some (0x82, 0x1D, 2) := by decide
theorem test_advD2 :
    (after (exec .advD2 (drawing 0x4567 2))).map face = some (0x92, 0x1B, 3) := by decide
theorem test_advD3 :
    (after (exec .advD3 (drawing 0x4567 3))).map face = some (0x99, 0x17, 4) := by decide
theorem test_advD3_all_ones :
    (after (exec .advD3 (drawing 0xF000 3))).map face = some (0x90, 0x17, 4) := by decide
theorem test_advColon :
    (after (exec .advColon (drawing 0x1230 4))).map (fun s => (s.dsel, s.cur, s.d)) = some (0x0F, 0, 0) := by decide
theorem test_advClamp5 :
    (after (exec .advClamp5 (drawing 0x0450 5))).map face = some (0xC0, 0x1E, 1) := by decide
theorem test_advClamp67 :
    (after (exec (.advClamp67 6) (drawing 0x0450 6))).map face = some (0xC0, 0x1E, 1) ∧
    refusal (exec (.advClamp67 6) (drawing 0x0450 7)) = some .notEnabled := by decide

/-- The micro-operation trace of one ADV: A0 latches position 2 and leaves D, SEG and DSEL. -/
theorem test_advA0 :
    after (exec .advA0 (drawing 0x1230 2)) = some { inAdv 0x1230 .a1 .digit2 0 with cur := 2 } := by decide
theorem test_advA0_clamps :
    (after (exec .advA0 (drawing 0x1230 7))).map (fun s => (s.p, s.cur)) = some (.digit0, 0) := by decide
theorem test_advA1 :
    (after (exec .advA1 { inAdv 0x1230 .a1 .digit2 3 with dsel := 0x1D })).map (·.dsel) = some 0x1F := by decide
theorem test_advA2 :
    (after (exec .advA2 (inAdv 0x1230 .a2 .digit2 3))).map (·.d) = some 2 := by decide
theorem test_advA2_colon_keeps_d :
    (after (exec .advA2 (inAdv 0x1230 .a2 .colon 5))).map (·.d) = some 5 := by decide
theorem test_advA3 :
    (after (exec .advA3 (inAdv 0x1230 .a3 .digit2 2))).map (·.seg) = some 0xA4 := by decide
theorem test_advA4 :
    (after (exec .advA4 (inAdv 0x1230 .a4 .digit2 2))).map (·.dsel) = some 0x1B := by decide
theorem test_advA5_wraps :
    (after (exec .advA5 (inAdv 0x1230 .a5 .colon 2))).map (·.cur) = some 0 ∧
    (after (exec .advA5 (inAdv 0x1230 .a5 .digit3 2))).map (·.cur) = some 4 := by decide

/-! ## The digit3 decode and the encoder (sections 2.1 and 2.2) -/

theorem test_d3dec :
    (after (exec (.d3decGen07 7) (inAdv 0x7000 .a2 .digit3 0))).map (·.d) = some 7 ∧
    (after (exec .d3dec8 (inAdv 0x8000 .a2 .digit3 0))).map (·.d) = some 8 ∧
    (after (exec .d3dec9 (inAdv 0x9000 .a2 .digit3 0))).map (·.d) = some 9 ∧
    (after (exec .d3decF (inAdv 0xF000 .a2 .digit3 0))).map (·.d) = some 9 := by decide

theorem test_d3dec_generic :
    (after (exec (.d3decGenAB 0xB) (inAdv 0xB000 .a2 .digit3 0))).map (·.d) = some 11 ∧
    (after (exec (.d3decGenCD 0xC) (inAdv 0xC000 .a2 .digit3 0))).map (·.d) = some 12 ∧
    (after (exec .d3decGenE (inAdv 0xE000 .a2 .digit3 0))).map (·.d) = some 14 := by decide

theorem test_enc_low :
    (after (exec .enc0 (inAdv 0 .a3 .digit0 0))).map (·.seg) = some 0xC0 ∧
    (after (exec .enc1 (inAdv 0 .a3 .digit0 1))).map (·.seg) = some 0xF9 ∧
    (after (exec .enc2 (inAdv 0 .a3 .digit0 2))).map (·.seg) = some 0xA4 ∧
    (after (exec .enc3 (inAdv 0 .a3 .digit0 3))).map (·.seg) = some 0xB0 ∧
    (after (exec .enc4 (inAdv 0 .a3 .digit0 4))).map (·.seg) = some 0x99 := by decide

theorem test_enc_high :
    (after (exec .enc5 (inAdv 0 .a3 .digit0 5))).map (·.seg) = some 0x92 ∧
    (after (exec .enc6 (inAdv 0 .a3 .digit0 6))).map (·.seg) = some 0x82 ∧
    (after (exec .enc7 (inAdv 0 .a3 .digit0 7))).map (·.seg) = some 0xF8 ∧
    (after (exec .enc8 (inAdv 0 .a3 .digit0 8))).map (·.seg) = some 0x80 ∧
    (after (exec .enc9 (inAdv 0 .a3 .digit0 9))).map (·.seg) = some 0x90 := by decide

/-- Out of range: the machine goes on, and the next draw has a new number. -/
theorem test_enc_out_of_range :
    (after (exec (.encOorAB 10) (inAdv 0 .a3 .digit1 10))).map (fun s => (s.aph, s.draws)) = some (.a4, 1) ∧
    (after (exec (.encOorCF 15) (inAdv 0 .a3 .digit2 15))).map (fun s => (s.aph, s.draws)) = some (.a4, 1) := by
  decide

/-! ## Buttons, NOP and POR (sections 2.5 and 2.7) -/

theorem test_start :
    after (exec .start (counter 0x9990 false 9 9 0x07)) = some (counter 0x9990 true 9 9 0x03) := by decide
theorem test_rst :
    after (exec .rst (counter 0x0250 true 5 2 0x03)) = some (counter 0x0000 false 5 2 0x01) := by decide
theorem test_rst_inside_a_tick :
    after (exec .rst { inTick 0x0250 true 5 2 .k2 false false with pend := 0x02 }) =
      some (inTick 0x0000 false 5 2 .k2 false false) := by decide
theorem test_stop :
    after (exec .stop (counter 0x0250 true 5 2 0x01)) = some (counter 0x0250 false 5 2 0x00) := by decide
theorem test_nop :
    after (exec .nop (counter 0x0250 true 5 2 0x00)) = some (counter 0x0250 true 5 2 0x00) := by decide

theorem test_por :
    after (exec .por ⟨0x0A00, true, 3, 0, 10, 0xA4, 0x1F, 0x1B, .k5, true, false, .a3, .digit2, 2, 0, 0, []⟩) =
      some State.reset := by decide

/-! ## The sequencer (section 2.6) -/

theorem test_enabled_steps :
    enabledSteps Config.block { State.reset with pend := 0x0B } = [.rst, .stop, .advA0] ∧
    enabledSteps Config.block { State.reset with tph := .k4, aph := .a3, pend := 0x08 } = [.tickK4] ∧
    enabledSteps Config.block { State.reset with aph := .a3, pend := 0x14 } = [.start, .tickK0] ∧
    enabledSteps { Config.block with preempt := false } { State.reset with aph := .a3, pend := 0x04 } = [.advA3] ∧
    enabledSteps { Config.block with preempt := false } { State.reset with tph := .k4, pend := 0x02 } =
      [.tickK4] := by decide

/-- Program P7: the two sequencers' first steps differ. -/
theorem test_two_sequencers :
    referenceChoice Config.block (counter 0x0250 true 5 2 0x07) = .start ∧
    secondChoice Config.block (counter 0x0250 true 5 2 0x07) = .rst := by decide

/-! ## Witnesses: states that meet an obligation's hypotheses -/

theorem witness_DecodeOfEncodeIsTheRow :
    Instr.por.wf = true ∧ (Instr.advClamp67 7).wf = true ∧ (Instr.d3decGen07 0).wf = true := by decide

theorem witness_DecodeIsTheMaskAndMatchOfTheTable :
    decode .digit 0x0F = .instr (.encOorCF 15) ∧ (Instr.encOorCF 12).wf = true ∧
    (Instr.encOorCF 12).row.fits .digit 0x0F = true ∧ Instr.nop.row.fits .pend 0 = true := by decide

theorem witness_idle_boundary : ∃ s : State, s.tph = .idle ∧ s.aph = .idle ∧ s.pend = 0x1F :=
  ⟨{ State.reset with pend := 0x1F }, by decide⟩

/-- GateEndsTheTickUnlessRunning, both sides of RUN. -/
theorem witness_GateEndsTheTickUnlessRunning (b : Bool) :
    ∃ s : State, s.tph = .idle ∧ s.pending .slow = true ∧ s.run = b := by
  cases b
  · exact ⟨counter 0 false 0 0 0x10, by decide⟩
  · exact ⟨counter 0 true 0 0 0x10, by decide⟩

/-- TerminalTestsAroundTheStepAutoStop, each clause. -/
theorem witness_TerminalTestsAroundTheStepAutoStop :
    (∃ s : State, s.tph = .k1 ∧ s.ev = 0x9990) ∧ (∃ s : State, s.tph = .k3 ∧ s.ev = 0x9980) ∧
    (∃ s : State, s.tph = .idle ∧ s.pending .slow = true ∧ s.run = true ∧ s.ev = 0x9990) ∧
    (∃ s : State, s.tph = .idle ∧ s.pending .slow = true ∧ s.run = true ∧ s.ev = 0x9980 ∧ s.sub = 8 ∧ s.sec = 9) :=
  ⟨⟨inTick 0x9990 true 9 9 .k1 false false, by decide⟩, ⟨inTick 0x9980 true 9 9 .k3 false false, by decide⟩,
   ⟨counter 0x9990 true 3 4 0x10, by decide⟩, ⟨counter 0x9980 true 8 9 0x10, by decide⟩⟩

theorem witness_TerminalTestsAfterCarriesAutoStop :
    (∃ s : State, s.tph = .k5 ∧ s.c1 = true ∧ s.ev = 0x9990) ∧
    (∃ s : State, s.tph = .k7 ∧ s.c2 = true ∧ s.ev = 0x9990) :=
  ⟨⟨inTick 0x9990 true 0 0 .k5 true false, by decide⟩, ⟨inTick 0x9990 true 0 0 .k7 false true, by decide⟩⟩

theorem witness_HundredthsStepAddsInBinary : ∃ s : State, s.tph = .k2 ∧ s.ev = 0xFFF0 ∧ s.sub = 15 :=
  ⟨inTick 0xFFF0 true 15 0 .k2 false false, by decide⟩

theorem witness_SecondsCarryAtExactlyTenSubTicks :
    (∃ s : State, s.tph = .k4 ∧ s.sub = 10) ∧ (∃ s : State, s.tph = .k4 ∧ s.sub = 11) :=
  ⟨⟨inTick 0x00A0 true 10 0 .k4 false false, by decide⟩, ⟨inTick 0x00A0 true 11 0 .k4 false false, by decide⟩⟩

theorem witness_MinutesCarryAtExactlyTenCarries :
    (∃ s : State, s.tph = .k6 ∧ s.sec = 10) ∧ (∃ s : State, s.tph = .k6 ∧ s.sec = 9) :=
  ⟨⟨inTick 0x0A00 true 0 10 .k6 true false, by decide⟩, ⟨inTick 0x0900 true 0 9 .k6 true false, by decide⟩⟩

theorem witness_SafetyNetOnTheNonCarryPath :
    (∃ s : State, s.tph = .k8 ∧ s.c1 = false ∧ s.c2 = false) ∧ (∃ s : State, s.tph = .k8 ∧ s.c2 = true) :=
  ⟨⟨inTick 0x0015 true 1 0 .k8 false false, by decide⟩, ⟨inTick 0x1005 true 0 0 .k8 false true, by decide⟩⟩

/-- WholeTickIsTheFunctionOfTheSpec and TickTakesOneTwoFourOrNineMicroOperations: its four lengths. -/
theorem witness_WholeTickIsTheFunctionOfTheSpec :
    (∃ s : State, s.tph = .idle ∧ s.c1 = false ∧ s.c2 = false ∧ s.pending .slow = true ∧ s.run = false) ∧
    (∃ s : State, s.tph = .idle ∧ s.c1 = false ∧ s.c2 = false ∧ s.run = true ∧ s.ev = 0x9990) ∧
    (∃ s : State, s.tph = .idle ∧ s.c1 = false ∧ s.c2 = false ∧ s.run = true ∧ s.ev + 0x0010 = 0x9990) ∧
    (∃ s : State, s.tph = .idle ∧ s.c1 = false ∧ s.c2 = false ∧ s.run = true ∧ s.ev = 0x0990 ∧ s.sub = 9) :=
  ⟨⟨counter 0x0250 false 5 2 0x10, by decide⟩, ⟨counter 0x9990 true 9 9 0x10, by decide⟩,
   ⟨counter 0x9980 true 8 9 0x10, by decide⟩, ⟨counter 0x0990 true 9 9 0x10, by decide⟩⟩

/-- TickRowsLeaveTheDisplayAlone, with the whole TICK and with a micro-operation. -/
theorem witness_TickRowsLeaveTheDisplayAlone :
    (.tick ∈ tickRows ∧ (after (exec .tick (counter 0x0990 true 9 9 0x1F))).isSome = true) ∧
    (.tickK8 ∈ tickRows ∧ (after (exec .tickK8 (inTick 0x1000 true 0 0 .k8 true true))).isSome = true) := by decide

/-- TicksCountInDecimalUpToTheTerminalValue. -/
theorem witness_TicksCountInDecimalUpToTheTerminalValue :
    ∃ s : State, s.atRest ∧ s.ev = 0 ∧ s.run = true ∧ s.sub = 0 ∧ s.sec = 0 := by
  refine ⟨counter 0 true 0 0 0x07, ?_⟩
  unfold State.atRest
  decide

/-- TerminalValueHoldsUntilReset: a TICK at the terminal value completes. -/
theorem witness_TerminalValueHoldsUntilReset :
    ∃ s : State, s.stalled ∧ s.tph = .k3 ∧ (after (exec .tickK3 s)).isSome = true := by
  refine ⟨inTick 0x9990 true 9 9 .k3 false false, ?_⟩
  unfold State.stalled
  decide

/-- OperationsInProgressAdvanceAndEnd, both clauses. -/
theorem witness_OperationsInProgressAdvanceAndEnd :
    (∃ s : State, s.tph ≠ .idle) ∧
    (∃ s : State, s.tph = .idle ∧ s.pending .slow = false ∧ s.aph ≠ .idle) :=
  ⟨⟨inTick 0 true 0 0 .k1 false false, by decide⟩, ⟨inAdv 0 .a5 .colon 0, by decide⟩⟩

/-- The statements about A0, with CUR at both ends of each clause's range, and the sub-routines' CUR. -/
theorem witness_atA0 (cur : Cursor) : ∃ s : State, s.atA0 ∧ s.cur = cur ∧ s.ev = 0x9990 := by
  refine ⟨drawing 0x9990 cur, ⟨rfl, ?_, rfl, ?_⟩, rfl, rfl⟩
  · show (0x08#5).getLsbD 4 = false
    decide
  · show (0x08#5).getLsbD 3 = true
    decide

theorem witness_atA0_cursor_of_position (p : Position) :
    ∃ s : State, s.atA0 ∧ s.ev = 0x9990 ∧ s.cur.toNat = Position.index p := by
  refine ⟨drawing 0x9990 (BitVec.ofNat 3 (Position.index p)), ⟨rfl, ?_, rfl, ?_⟩, rfl, ?_⟩
  · show (0x08#5).getLsbD 4 = false
    decide
  · show (0x08#5).getLsbD 3 = true
    decide
  · cases p <;> rfl

/-- The statements about A1 to A5, at every phase, position, digit and value of EV. -/
theorem witness_atAdv (ph : AdvPhase) (p : Position) (d : Nibble) (ev : EvWord) :
    ∃ s : State, s.atAdv ph ∧ s.p = p ∧ s.d = d ∧ s.ev = ev := by
  refine ⟨inAdv ev ph p d, ⟨rfl, ?_, rfl⟩, rfl, rfl, rfl⟩
  show (0#5).getLsbD 4 = false
  decide

/-- Digit3DecodeRowsLatchTheirDigit: a field of every row. -/
theorem witness_Digit3DecodeRowsLatchTheirDigit :
    field 0x7000 3 = 7 ∧ field 0x8000 3 = 8 ∧ field 0x9000 3 = 9 ∧ field 0xA000 3 = 0xA ∧ field 0xB000 3 = 0xB ∧
    field 0xC000 3 = 0xC ∧ field 0xD000 3 = 0xD ∧ field 0xE000 3 = 0xE ∧ field 0xF000 3 = 0xF := by decide

/-- SegmentsAreWrittenOnceFromTheEncoder and AdvWritesOnlyTheDisplay: rows that complete. -/
theorem witness_AdvWritesOnlyTheDisplay :
    (.advA5 ∈ advMicroRows ∧ (after (exec .advA5 (inAdv 0x1230 .a5 .colon 0))).isSome = true) ∧
    (.advClamp67 7 ∈ wholeAdvRows ∧ (after (exec (.advClamp67 7) (drawing 0x1230 7))).isSome = true) := by decide

/-- WholeAdvRunsTheSubroutineOfTheCursor: the six micro-operations complete one after the other. -/
theorem witness_WholeAdvRunsTheSubroutineOfTheCursor :
    ∃ s t0 t1 t2 t3 t4 t5 : State, exec .advA0 s = .next t0 ∧ exec .advA1 t0 = .next t1 ∧
      exec .advA2 t1 = .next t2 ∧ exec .advA3 t2 = .next t3 ∧ exec .advA4 t3 = .next t4 ∧
      exec .advA5 t4 = .next t5 :=
  ⟨drawing 0x1230 2, _, _, _, _, _, _, rfl, rfl, rfl, rfl, rfl, rfl⟩

theorem witness_AdvVisitsTheFivePositionsInTurn : ∃ s : State, s.atRest ∧ s.cur.toNat = 4 := by
  refine ⟨{ State.reset with cur := 4 }, ?_⟩
  unfold State.atRest
  decide

/-- A state of a run in the middle of a TICK that takes both carries, with an ADV suspended at A3. -/
def midRun : State :=
  { State.reset with
    ev := 0x0A00, run := true, sec := 10, tph := .k5, c1 := true, aph := .a3, p := .digit2, d := 9, cur := 2,
    pend := 0x07 }

theorem midRun_inv : midRun.Inv := by
  refine ⟨⟨?_, ?_, ?_, ?_, ?_, ?_, ?_, ?_, ?_, ?_, ?_⟩, ⟨?_, ?_, ?_, ?_, ?_⟩⟩
  all_goals
    first
    | decide
    | exact Or.inl rfl
    | (unfold State.stepping; decide)
    | (unfold State.carrying; decide)
    | (unfold State.related; decide)

/-- A state of a run at the A3 of an ADV, where SEG changes. -/
def midDraw : State := { inAdv 0x9990 .a3 .digit3 9 with sub := 9, sec := 9 }

theorem midDraw_inv : midDraw.Inv := by
  refine ⟨⟨?_, ?_, ?_, ?_, ?_, ?_, ?_, ?_, ?_, ?_, ?_⟩, ⟨?_, ?_, ?_, ?_, ?_⟩⟩
  all_goals
    first
    | decide
    | exact Or.inl rfl
    | (unfold State.stepping; decide)
    | (unfold State.carrying; decide)
    | (unfold State.related; decide)

theorem witness_SegmentsChangeOnlyWhileBlank :
    midDraw.Inv ∧ .advA3 ∈ stepRows ∧
    (after (exec .advA3 midDraw)).map (fun t => decide (t.seg ≠ midDraw.seg)) = some true :=
  ⟨midDraw_inv, by decide⟩

/-- EveryStepKeepsTheRunInvariant and NoDrawIsMadeInARun: a state of a run whose next step is a row. -/
theorem witness_EveryStepKeepsTheRunInvariant :
    ∃ s t : State, s.Inv ∧ step s = .next t := by
  obtain ⟨t, ht⟩ := exists_next (o := step midDraw) (by decide)
  exact ⟨midDraw, t, midDraw_inv, ht⟩

theorem witness_ReachableFieldsStayDecimal : Reachable { State.reset with agenda := [.req 0x14, .step] } :=
  .reset _

theorem witness_LateTestsAndSafetyNetHaveNoEffectInARun :
    (midRun.Inv ∧ (after (exec .tickK5 midRun)).isSome = true) ∧
    (∃ s : State, s.sub = 10 ∧ s.tph = .k4) ∧ (∃ s : State, s.sec = 10 ∧ s.tph = .k6) :=
  ⟨⟨midRun_inv, by decide⟩, ⟨inTick 0x09A0 true 10 9 .k4 false false, by decide⟩,
   ⟨inTick 0x0A00 true 0 10 .k6 true false, by decide⟩⟩

/-- LateTestsAndSafetyNetHaveNoEffectInARun, the clauses of K7 and K8. -/
theorem witness_late_states_of_a_run :
    (State.Inv { midRun with ev := 0x1000, sec := 0, tph := .k7, c2 := true }) ∧
    (State.Inv { midRun with ev := 0x1000, sec := 0, tph := .k8, c2 := true }) := by
  refine ⟨⟨⟨?_, ?_, ?_, ?_, ?_, ?_, ?_, ?_, ?_, ?_, ?_⟩, ⟨?_, ?_, ?_, ?_, ?_⟩⟩,
    ⟨⟨?_, ?_, ?_, ?_, ?_, ?_, ?_, ?_, ?_, ?_, ?_⟩, ⟨?_, ?_, ?_, ?_, ?_⟩⟩⟩
  all_goals
    first
    | decide
    | exact Or.inl rfl
    | (unfold State.stepping; decide)
    | (unfold State.carrying; decide)
    | (unfold State.related; decide)

/-- The statements about the buttons: every button pending, in the middle of a TICK and at the terminal value. -/
theorem witness_buttons :
    (∃ s : State, s.pending .start = true ∧ s.pending .rst = true ∧ s.pending .stop = true ∧ s.tph ≠ .idle) ∧
    (∃ s : State, s.ev = 0x9990 ∧ s.tph = .k1) ∧ (∃ s : State, s.ev = 0x9990 ∧ s.tph = .k3) ∧
    (∃ c : Config, c.rstClearsCounters = true) ∧ (∃ c : Config, c.rstClearsCounters = false) :=
  ⟨⟨midRun, by decide⟩, ⟨inTick 0x9990 true 9 9 .k1 false false, by decide⟩,
   ⟨inTick 0x9990 true 9 9 .k3 false false, by decide⟩,
   ⟨{ Config.block with rstClearsCounters := true }, rfl⟩, ⟨Config.block, rfl⟩⟩

/-- StartSetsRunAndNothingElse and StopClearsRunAndNothingElse: the two-step clauses complete. -/
theorem witness_start_at_the_terminal_value :
    (∃ s t u : State, s.pending .start = true ∧ s.ev = 0x9990 ∧ s.tph = .idle ∧
      exec .start s = .next t ∧ exec .tick t = .next u) ∧
    (∃ s t u : State, s.pending .stop = true ∧ s.pending .start = true ∧
      exec .stop s = .next t ∧ exec .start t = .next u) :=
  ⟨⟨counter 0x9990 false 9 9 0x14, _, _, rfl, rfl, rfl, rfl, rfl⟩,
   ⟨counter 0x0250 true 5 2 0x05, _, _, rfl, rfl, rfl, rfl⟩⟩

theorem witness_OneRequestOneExecution :
    (after (exec .start midRun)).isSome = true ∧ (after (exec .rst midRun)).isSome = true ∧
    (after (exec .stop midRun)).isSome = true := by decide

/-- IdleBlockTakesNoStep. -/
theorem witness_IdleBlockTakesNoStep : ∃ s : State, s.quiescent ∧ s.agenda = [] ∧ s.ev = 0x0250 := by
  refine ⟨counter 0x0250 true 5 2 0, ?_⟩
  unfold State.quiescent
  decide

/-- RunIsWrittenByItsWritersOnly: a START that sets it and an auto-stop that clears it. -/
theorem witness_RunIsWrittenByItsWritersOnly :
    (after (exec .start (counter 0 false 0 0 0x04))).map (·.run) = some true ∧
    (after (exec .tick (counter 0x9980 true 8 9 0x10))).map (·.run) = some false ∧
    (after (exec .tickK2 (inTick 0 true 0 0 .k2 false false))).isSome = true ∧
    (after (exec .tickK2 (inTick 0 false 0 0 .k2 false false))).isSome = true := by decide

theorem witness_StepRowsRunExactlyWhereEnabled : .advA0 ∈ stepRows ∧ .stop ∈ stepRows := by decide

/-- OwnStepTakesAnEnabledStep and EveryEnabledStepCanBeTaken: several steps enabled. -/
theorem witness_EveryEnabledStepCanBeTaken :
    ∃ s : State, s.agenda = [] ∧ Instr.tickK5 ∈ enabledSteps Config.block s ∧ Instr.rst ∈ enabledSteps Config.block s :=
  ⟨midRun, by decide⟩

/-- The states of a run in which STOP, then the K0 of a stopped TICK, then the A5 of an ADV are taken, and nothing
happens any more. -/
def fairStates : Nat → State
  | 0 => { State.reset with pend := 0x11, aph := .a5 }
  | 1 => { State.reset with pend := 0x10, aph := .a5 }
  | 2 => { State.reset with aph := .a5 }
  | _ + 3 => { State.reset with cur := 1 }

def fairMoves : Nat → Move
  | 0 => .take .stop
  | 1 => .take .tickK0
  | 2 => .take .advA5
  | _ + 3 => .raise 0

/-- EveryEnabledStepCanBeTaken: a fair run with a button, a TICK and an ADV owed at its start, and the slow source
silent. -/
theorem witness_FairRun :
    FairRun fairStates fairMoves ∧ ¬ SlowSourceNeverStops fairMoves ∧
    (fairStates 0).pending .stop = true ∧ (fairStates 0).pending .slow = true ∧ (fairStates 0).aph ≠ .idle := by
  refine ⟨⟨fun n => ?_, fun i n h => ?_⟩, fun h => ?_, by decide⟩
  · match n with
    | 0 => exact ⟨by decide, rfl⟩
    | 1 => exact ⟨by decide, rfl⟩
    | 2 => exact ⟨by decide, rfl⟩
    | n + 3 =>
      show ({ State.reset with cur := 1 } : State) = State.raise { State.reset with cur := 1 } 0
      decide
  · have rest : enabledSteps Config.block (fairStates (n + 3)) = [] := by
      show enabledSteps Config.block { State.reset with cur := 1 } = []
      decide
    simpa [rest] using h (n + 3) (by omega)
  · obtain ⟨m, v, hm, hv, h4⟩ := h 3
    obtain ⟨k, rfl⟩ := Nat.exists_eq_add_of_le' hm
    cases hv
    revert h4
    decide

theorem witness_RowTurnRunsTheDecodedRow :
    (∃ s : State, s.agenda = .row .tph 0x05 :: [.free] ∧ decode .tph 0x05 = .instr .tickK5) ∧
    (∃ s : State, s.agenda = .row .tph 0x09 :: [] ∧ decode .tph 0x09 = .rejected .noSuchPhase) :=
  ⟨⟨{ midRun with agenda := [.row .tph 0x05, .free] }, by decide⟩,
   ⟨{ midRun with agenda := [.row .tph 0x09] }, by decide⟩⟩

theorem witness_RequestsSetPendingBitsAndMerge : ∃ s : State, s.agenda = .req 0x1F :: [] ∧ s.pend = 0x07 :=
  ⟨{ midRun with agenda := [.req 0x1F] }, by decide⟩

/-- ReferenceSequencerChoosesByPriority and SecondSequencerTakesButtonsFirst, each clause. -/
theorem witness_sequencers :
    (∃ s : State, s.tph ≠ .idle) ∧
    (∃ s : State, s.tph = .idle ∧ s.pending .slow = false ∧ s.aph ≠ .idle) ∧
    (∃ s : State, s.tph = .idle ∧ s.pending .slow = false ∧ s.aph = .idle ∧ s.pending .fast = false ∧
      s.pending .stop = true) ∧ Config.block.preempt = true :=
  ⟨⟨midRun, by decide⟩, ⟨midDraw, by decide⟩, ⟨counter 0 false 0 0 0x01, by decide⟩, rfl⟩

/-- TickSuspendsAdvWithoutDisturbingIt: an ADV at A3 while a TICK is in progress, and while one is pending. -/
theorem witness_TickSuspendsAdvWithoutDisturbingIt :
    (midRun.tph ≠ .idle ∧ midRun.aph = .a3 ∧ (after (exec .tickK5 midRun)).isSome = true) ∧
    (∃ s : State, s.pending .slow = true ∧ s.aph = .a3 ∧ (after (exec .tickK0 s)).isSome = true) :=
  ⟨by decide, ⟨{ midDraw with pend := 0x10 }, by decide⟩⟩

/-- CounterAndDisplayShareOnlyTheElapsedValue: two different states that agree on a part. -/
theorem witness_CounterAndDisplayShareOnlyTheElapsedValue :
    (∃ s1 s2 : State, s1 ≠ s2 ∧ s1.counterPart = s2.counterPart ∧
      (after (exec .tickK5 s1)).isSome = true ∧ (after (exec .tickK5 s2)).isSome = true) ∧
    (∃ s1 s2 : State, s1 ≠ s2 ∧ s1.displayPart = s2.displayPart ∧ s1.ev = s2.ev ∧ s1.draws = s2.draws ∧
      (after (exec .advA3 s1)).isSome = true ∧ (after (exec .advA3 s2)).isSome = true) :=
  ⟨⟨midRun, { midRun with cur := 0, aph := .idle }, by decide⟩, ⟨midDraw, { midDraw with sub := 0, run := true }, by decide⟩⟩

theorem witness_RstInsideAPlainTick :
    ∃ (n : Nat) (s : State), n = 2 ∧ s.tph = .idle ∧ s.c1 = false ∧ s.c2 = false ∧ s.run = true ∧
      s.ev ≠ 0x9990 ∧ s.ev + 0x0010 ≠ 0x9990 ∧ s.sub ≠ 9 ∧ s.sec ≠ 10 :=
  ⟨2, counter 0x0250 true 5 2 0x12, by decide⟩

theorem witness_RstInsideADoubleCarry :
    ∃ (n : Nat) (s : State), n = 9 ∧ s.tph = .idle ∧ s.c1 = false ∧ s.c2 = false ∧ s.run = true ∧
      s.ev ≠ 0x9990 ∧ s.ev + 0x0010 ≠ 0x9990 ∧ s.sub = 9 ∧ s.sec = 9 :=
  ⟨9, counter 0x0990 true 9 9 0x12, by decide⟩

end Sys2Proof.Tests
end

/-! PROOFS. The frame of ADV, where its rows complete, and the lines that A1 and A4 drive
(spec/41_digit_multiplexer.md). -/

namespace Sys2Proof.Machine

/-! ## Where the rows of ADV complete, and with which state -/

/-- Each micro-operation of ADV, at its own phase, completes with the state microAdv gives. -/
theorem exec_advRow_of_atAdv {s : State} {ph : AdvPhase} (h : s.atAdv ph)
    (requested : ph = .idle → s.pending .fast = true) :
    exec (advRow ph) s = .next (microAdv Config.block s) := by
  obtain ⟨htph, hslow, haph⟩ := h
  have enabled : advEnabled ph s = true := advEnabled_iff.mpr ⟨htph, hslow, haph, requested⟩
  cases ph <;>
    simp [advRow, exec, execAdvA0, execAdvA1, execAdvA2, execAdvA3, execAdvA4, execAdvA5, enabled, microAdv, haph]

theorem exec_advA1_of_atAdv {s : State} (h : s.atAdv .a1) : exec .advA1 s = .next (microA1 s) := by
  simpa [advRow, microAdv, h.2.2] using exec_advRow_of_atAdv h nofun

theorem exec_advA4_of_atAdv {s : State} (h : s.atAdv .a4) : exec .advA4 s = .next (microA4 s) := by
  simpa [advRow, microAdv, h.2.2] using exec_advRow_of_atAdv h nofun

theorem advEnabled_of_atA0 {s : State} (h : s.atA0) : advEnabled .idle s = true := by
  obtain ⟨htph, hslow, haph, hfast⟩ := h
  exact advEnabled_iff.mpr ⟨htph, hslow, haph, fun _ => hfast⟩

theorem exec_adv_of_atA0 {s : State} (h : s.atA0) : exec .adv s = .next (wholeAdv Config.block s) :=
  whenEnabled_eq_next.mpr ⟨advEnabled_of_atA0 h, rfl⟩

/-- A row of ADV that completes has run the whole ADV or the micro-operation of the phase. -/
theorem eq_wholeAdv_or_microAdv_of_exec {i : Instr} {s t : State} (hi : i ∈ wholeAdvRows ++ advMicroRows)
    (h : exec i s = .next t) : t = wholeAdv Config.block s ∨ t = microAdv Config.block s := by
  rcases exec_next_cases h with ⟨rfl, -⟩ | ⟨rfl, -⟩ | ⟨rfl, -⟩ | ⟨rfl, -⟩ | ⟨rfl, -⟩ | ⟨rfl, -⟩ | ⟨rfl, -⟩ |
    ⟨-, whole, -⟩ | ⟨-, -, -, -, -, micro⟩
  iterate 6 exact absurd hi (by decide)
  · exact absurd hi (by cases s.tph <;> decide)
  · exact .inl whole
  · exact .inr micro

/-! ## The frame of ADV -/

/-- What ADV leaves as it was (rule R126): what TICK and the buttons read and write, every pending bit but
PEND[3], and the model's own choices and agenda. The display's registers and the draws are free. -/
structure AdvFrame (s t : State) : Prop where
  counter : t.counterPart = s.counterPart
  otherRequests : t.pend ||| 0x08 = s.pend ||| 0x08
  choices : t.choices = s.choices
  agenda : t.agenda = s.agenda

theorem AdvFrame.trans {s t u : State} (h₁ : AdvFrame s t) (h₂ : AdvFrame t u) : AdvFrame s u where
  counter := h₂.counter.trans h₁.counter
  otherRequests := h₂.otherRequests.trans h₁.otherRequests
  choices := h₂.choices.trans h₁.choices
  agenda := h₂.agenda.trans h₁.agenda

/-- Clearing a source's bit changes that bit at most. -/
theorem clear_pend_or_pendVector (s : State) (r : Source) :
    (s.clear r).pend ||| pendVector r = s.pend ||| pendVector r := by
  ext k hk
  cases own : (pendVector r)[k] <;> simp [own]

theorem microA0_frame (s : State) : AdvFrame s (microA0 s) :=
  ⟨rfl, clear_pend_or_pendVector s .fast, rfl, rfl⟩

theorem microA1_frame (s : State) : AdvFrame s (microA1 s) := ⟨rfl, rfl, rfl, rfl⟩

theorem microA2_frame (c : Config) (s : State) : AdvFrame s (microA2 c s) := ⟨rfl, rfl, rfl, rfl⟩

theorem microA3_frame (c : Config) (s : State) : AdvFrame s (microA3 c s) := by
  rcases microA3_cases c s with ⟨-, colon⟩ | ⟨-, pattern, -, digit⟩ | ⟨-, -, draw⟩
  · rw [colon]; exact ⟨rfl, rfl, rfl, rfl⟩
  · rw [digit]; exact ⟨rfl, rfl, rfl, rfl⟩
  · rw [draw]; exact ⟨rfl, rfl, rfl, rfl⟩

theorem microA4_frame (s : State) : AdvFrame s (microA4 s) := ⟨rfl, rfl, rfl, rfl⟩

theorem microA5_frame (s : State) : AdvFrame s (microA5 s) := ⟨rfl, rfl, rfl, rfl⟩

theorem microAdv_frame (c : Config) (s : State) : AdvFrame s (microAdv c s) := by
  unfold microAdv
  cases s.aph with
  | idle => exact microA0_frame s
  | a1 => exact microA1_frame s
  | a2 => exact microA2_frame c s
  | a3 => exact microA3_frame c s
  | a4 => exact microA4_frame s
  | a5 => exact microA5_frame s

theorem wholeAdv_frame (c : Config) (s : State) : AdvFrame s (wholeAdv c s) :=
  microA0_frame s |>.trans (microA1_frame _) |>.trans (microA2_frame c _) |>.trans (microA3_frame c _)
    |>.trans (microA4_frame _) |>.trans (microA5_frame _)

/-! ## The lines -/

theorem enabledPositions_dselPat (p : Position) : enabledPositions (dselPat p) = [p] := by
  cases p <;> decide

/-! ## The obligations -/

/-- Settles O32: a row of ADV that completes has run microAdv or wholeAdv, and both keep the frame; neither guard
reads RUN or EV. -/
theorem advWritesOnlyTheDisplay : Obligations.AdvWritesOnlyTheDisplay := by
  refine ⟨fun i s t hi h => ?_, fun s run ev h => ?_, fun s run ev ph h requested => ?_⟩
  · have frame : AdvFrame s t := by
      rcases eq_wholeAdv_or_microAdv_of_exec hi h with rfl | rfl
      · exact wholeAdv_frame _ s
      · exact microAdv_frame _ s
    exact ⟨frame.counter, frame.otherRequests, frame.choices, frame.agenda⟩
  · have h' : State.atA0 { s with run := run, ev := ev } := h
    exact ⟨_, exec_adv_of_atA0 h'⟩
  · have h' : State.atAdv { s with run := run, ev := ev } ph := h
    exact ⟨_, exec_advRow_of_atAdv h' requested⟩

/-- Settles O21: the blank pattern of rule R112 is what microA1 writes. -/
theorem blankingDisablesEveryLine : Obligations.BlankingDisablesEveryLine :=
  fun _ h => exec_advA1_of_atAdv h

/-- Settles O24: A4 writes DSELPAT(P), whose value is looked at position by position, and DSELPAT(P) enables P
alone. -/
theorem enableSelectsExactlyThePosition : Obligations.EnableSelectsExactlyThePosition := by
  intro s h
  rw [exec_advA4_of_atAdv h]
  refine ⟨?_, fun t ht => ?_⟩
  · unfold microA4
    cases s.p <;> rfl
  · obtain rfl : microA4 s = t := by simpa using ht
    exact enabledPositions_dselPat s.p

end Sys2Proof.Machine

/-! PROOFS. Where the rows of TICK complete, the terminal tests, and the whole TICKs that the tests K1 and K3 end
(spec/42_elapsed_counter.md). -/

namespace Sys2Proof.Machine

/-! ## Where the rows of TICK complete, and with which state -/

/-- Each micro-operation of TICK, at its own phase, completes with the state microTick gives. -/
theorem exec_tickRow_of_tph {s : State} {ph : TickPhase} (h : s.tph = ph)
    (requested : ph = .idle → s.pending .slow = true) :
    exec (tickRow ph) s = .next (microTick Config.block s) := by
  have enabled : tickEnabled ph s = true := tickEnabled_iff.mpr ⟨h, requested⟩
  cases ph <;>
    simp [tickRow, exec, execTickK0, execTickK1, execTickK2, execTickK3, execTickK4, execTickK5, execTickK6,
      execTickK7, execTickK8, enabled, microTick, h]

theorem exec_tickK1_of_tph {s : State} (h : s.tph = .k1) : exec .tickK1 s = .next (microK1 Config.block s) := by
  simpa [tickRow, microTick, h] using exec_tickRow_of_tph h nofun

theorem exec_tickK3_of_tph {s : State} (h : s.tph = .k3) : exec .tickK3 s = .next (microK3 Config.block s) := by
  simpa [tickRow, microTick, h] using exec_tickRow_of_tph h nofun

theorem exec_tick_of_requested {s : State} (h : s.tph = .idle) (requested : s.pending .slow = true) :
    exec .tick s = .next (wholeTick Config.block s) :=
  whenEnabled_eq_next.mpr ⟨tickEnabled_iff.mpr ⟨h, fun _ => requested⟩, rfl⟩

/-! ## The terminal tests -/

theorem terminalTest_of_terminal {c : Config} {made : Bool} (next : TickPhase) {s : State} (hmade : made = true)
    (h : s.ev = c.terminal) : terminalTest c made next s = s.autoStop := by
  simp [terminalTest, hmade, h]

theorem terminalTest_of_ne_terminal {c : Config} (made : Bool) (next : TickPhase) {s : State}
    (h : s.ev ≠ c.terminal) : terminalTest c made next s = s.toTick next := by
  simp [terminalTest, h]

/-- A terminal test of the block, with TERMINAL = 0x9990. -/
theorem terminalTest_block (made : Bool) (next : TickPhase) (s : State) :
    terminalTest Config.block made next s =
      if made = true ∧ s.ev = 0x9990 then s.autoStop else s.toTick next := by
  simp [terminalTest, Config.block]

/-! ## The TICKs that a terminal test ends early -/

theorem microK0_of_run {s : State} (h : s.run = true) : microK0 s = (s.clear .slow).toTick .k1 :=
  if_pos h

/-- A TICK in progress goes on with the micro-operation its phase selects. -/
theorem restOfTick_succ_of_tph_ne_idle (c : Config) (n : Nat) {s : State} (h : s.tph ≠ .idle) :
    restOfTick c (n + 1) s = restOfTick c n (microTick c s) :=
  if_neg h

/-- Past its gate a TICK makes the test K1. -/
theorem wholeTick_of_run (c : Config) {s : State} (run : s.run = true) :
    wholeTick c s = restOfTick c 7 (microK1 c ((s.clear .slow).toTick .k1)) := by
  rw [wholeTick, microK0_of_run run, restOfTick_succ_of_tph_ne_idle c 7 (by simp)]
  rfl

/-- K1 ends a TICK that starts at TERMINAL. -/
theorem wholeTick_of_terminal {c : Config} {s : State} (run : s.run = true) (h : s.ev = c.terminal) :
    wholeTick c s = (s.clear .slow).autoStop := by
  have stop : microK1 c ((s.clear .slow).toTick .k1) = (s.clear .slow).autoStop :=
    terminalTest_of_terminal .k2 rfl h
  rw [wholeTick_of_run c run, stop]
  exact restOfTick_idle c 7 rfl

/-- K3 ends a TICK whose hundredths step K2 reaches TERMINAL. -/
theorem wholeTick_of_step_to_terminal {c : Config} {s : State} (run : s.run = true) (before : s.ev ≠ c.terminal)
    (reached : s.ev + c.stepH = c.terminal) :
    wholeTick c s = { s.clear .slow with ev := c.terminal, sub := s.sub + 1 }.autoStop := by
  have goOn : microK1 c ((s.clear .slow).toTick .k1) = (s.clear .slow).toTick .k2 :=
    terminalTest_of_ne_terminal true .k2 before
  have step : microTick c ((s.clear .slow).toTick .k2) =
      { s.clear .slow with ev := c.terminal, sub := s.sub + 1, tph := .k3 } := by
    rw [← reached]
    rfl
  have stop : microTick c { s.clear .slow with ev := c.terminal, sub := s.sub + 1, tph := .k3 } =
      { s.clear .slow with ev := c.terminal, sub := s.sub + 1 }.autoStop :=
    terminalTest_of_terminal .k4 rfl rfl
  rw [wholeTick_of_run c run, goOn, restOfTick_succ_of_tph_ne_idle c 6 (by simp), step,
    restOfTick_succ_of_tph_ne_idle c 5 (by simp), stop]
  exact restOfTick_idle c 5 rfl

/-! ## The obligation -/

/-- Settles O8: K1 and K3 are terminal tests that are always made. From 0x9980 the first of them goes on, K2 adds
0x0010, and the second ends the TICK; SEC is 9 at the end because none of them writes it. -/
theorem terminalTestsAroundTheStepAutoStop : Obligations.TerminalTestsAroundTheStepAutoStop := by
  refine ⟨fun s h => ?k1, fun s h => ?k3, fun s h requested run hev => ?atTerminal,
    fun s h requested run hev hsub _ => ?reaching⟩
  case k1 =>
    rw [exec_tickK1_of_tph h, microK1, terminalTest_block]
    simp [State.autoStop, State.endTick, State.toTick]
  case k3 =>
    rw [exec_tickK3_of_tph h, microK3, terminalTest_block]
    simp [State.autoStop, State.endTick, State.toTick]
  case atTerminal =>
    rw [exec_tick_of_requested h requested, wholeTick_of_terminal run hev]
    rfl
  case reaching =>
    have before : s.ev ≠ Config.block.terminal := by rw [hev]; decide
    have reached : s.ev + Config.block.stepH = Config.block.terminal := by rw [hev]; rfl
    rw [exec_tick_of_requested h requested, wholeTick_of_step_to_terminal run before reached, hsub]
    rfl

end Sys2Proof.Machine

/-! PROOFS. Where START and STOP complete, that no other row sets RUN, and what a TICK in progress makes of a RUN
that a button writes (spec/43_buttons.md). -/

namespace Sys2Proof.Machine

/-! ## Where START and STOP complete, and with which state -/

theorem exec_start_eq_next {s t : State} :
    exec .start s = .next t ↔ s.pending .start = true ∧ t = microStart s := by
  rw [← buttonEnabled_block]
  exact whenEnabled_eq_next

theorem exec_stop_eq_next {s t : State} :
    exec .stop s = .next t ↔ s.pending .stop = true ∧ t = microStop s := by
  rw [← buttonEnabled_block]
  exact whenEnabled_eq_next

/-! ## No micro-operation sets RUN -/

theorem terminalTest_run_of_stopped (c : Config) (made : Bool) (next : TickPhase) {s : State} (h : s.run = false) :
    (terminalTest c made next s).run = false := by
  rcases terminalTest_cases c made next s with ⟨-, -, stop⟩ | ⟨-, goOn⟩
  · rw [stop, State.autoStop_run]
  · rw [goOn, State.toTick_run, h]

theorem microK0_run (s : State) : (microK0 s).run = s.run := by
  unfold microK0
  split <;> rfl

theorem microK4_run (c : Config) (s : State) : (microK4 c s).run = s.run := by
  unfold microK4
  split <;> rfl

theorem microK6_run (c : Config) (s : State) : (microK6 c s).run = s.run := by
  unfold microK6
  split <;> rfl

theorem microK8_run (c : Config) (s : State) : (microK8 c s).run = s.run := by
  unfold microK8
  split <;> rfl

/-- TICK writes RUN in the auto-stops of its terminal tests only, and these clear it. -/
theorem microTick_run_of_stopped (c : Config) {s : State} (h : s.run = false) : (microTick c s).run = false := by
  unfold microTick
  cases s.tph with
  | idle => rw [microK0_run, h]
  | k1 | k3 | k5 | k7 => exact terminalTest_run_of_stopped c _ _ h
  | k2 => exact h
  | k4 => rw [microK4_run, h]
  | k6 => rw [microK6_run, h]
  | k8 => rw [microK8_run, h]

theorem restOfTick_run_of_stopped (c : Config) (n : Nat) {s : State} (h : s.run = false) :
    (restOfTick c n s).run = false :=
  restOfTick_keeps c (P := fun s => s.run = false) (fun _ _ => microTick_run_of_stopped c) n h

theorem wholeTick_run_of_stopped (c : Config) {s : State} (h : s.run = false) : (wholeTick c s).run = false :=
  restOfTick_run_of_stopped c 8 (by rw [microK0_run, h])

theorem microRst_run (c : Config) (s : State) : (microRst c s).run = false := by
  rcases microRst_cases c s with ⟨-, h⟩ | ⟨-, h⟩ <;> rw [h]

theorem AdvFrame.run {s t : State} (h : AdvFrame s t) : t.run = s.run :=
  congrArg (fun counter => counter.2.1) h.counter

/-- START alone sets RUN (rule R160): every other row that completes leaves a stopped counter stopped. -/
theorem run_of_stopped_of_exec {i : Instr} {s t : State} (h : exec i s = .next t) (stopped : s.run = false)
    (other : i ≠ .start) : t.run = false := by
  rcases exec_next_cases h with ⟨-, rfl⟩ | ⟨-, rfl⟩ | ⟨start, -⟩ | ⟨-, -, rfl⟩ | ⟨-, -, rfl⟩ | ⟨-, -, rfl⟩ |
    ⟨-, -, rfl⟩ | ⟨-, rfl, -⟩ | ⟨-, -, -, -, -, rfl⟩
  · exact stopped
  · rfl
  · exact absurd start other
  · exact microRst_run _ s
  · rfl
  · exact wholeTick_run_of_stopped _ stopped
  · exact microTick_run_of_stopped _ stopped
  · rw [(wholeAdv_frame _ s).run, stopped]
  · rw [(microAdv_frame _ s).run, stopped]

/-! ## A TICK past its gate reads neither RUN nor PEND -/

/-- Two states agree on all that a TICK past its gate reads: the counter's registers but RUN. -/
structure AgreePastGate (s t : State) : Prop where
  ev : s.ev = t.ev
  sub : s.sub = t.sub
  sec : s.sec = t.sec
  tph : s.tph = t.tph
  c1 : s.c1 = t.c1
  c2 : s.c2 = t.c2

section AgreePastGate
variable {s t : State}

theorem microStart_agreePastGate (s : State) : AgreePastGate (microStart s) s := ⟨rfl, rfl, rfl, rfl, rfl, rfl⟩

theorem microStop_agreePastGate (s : State) : AgreePastGate (microStop s) s := ⟨rfl, rfl, rfl, rfl, rfl, rfl⟩

theorem AgreePastGate.terminalTest (h : AgreePastGate s t) (c : Config) (made : Bool) (next : TickPhase) :
    AgreePastGate (terminalTest c made next s) (terminalTest c made next t) := by
  unfold Machine.terminalTest
  rw [h.ev]
  split
  · exact ⟨h.ev, h.sub, h.sec, rfl, rfl, rfl⟩
  · exact ⟨h.ev, h.sub, h.sec, rfl, h.c1, h.c2⟩

theorem AgreePastGate.microK2 (h : AgreePastGate s t) (c : Config) :
    AgreePastGate (microK2 c s) (microK2 c t) :=
  ⟨congrArg (· + c.stepH) h.ev, congrArg (· + 1) h.sub, h.sec, rfl, h.c1, h.c2⟩

theorem AgreePastGate.microK4 (h : AgreePastGate s t) (c : Config) :
    AgreePastGate (microK4 c s) (microK4 c t) := by
  unfold Machine.microK4
  rw [h.sub, h.ev, h.sec]
  split
  · exact ⟨rfl, rfl, rfl, rfl, rfl, h.c2⟩
  · exact ⟨h.ev, h.sub, h.sec, rfl, h.c1, h.c2⟩

theorem AgreePastGate.microK6 (h : AgreePastGate s t) (c : Config) :
    AgreePastGate (microK6 c s) (microK6 c t) := by
  unfold Machine.microK6
  rw [h.sec, h.ev]
  split
  · exact ⟨rfl, h.sub, rfl, rfl, h.c1, rfl⟩
  · exact ⟨h.ev, h.sub, h.sec, rfl, h.c1, h.c2⟩

theorem AgreePastGate.microK8 (h : AgreePastGate s t) (c : Config) :
    AgreePastGate (microK8 c s) (microK8 c t) := by
  unfold Machine.microK8
  rw [h.c1, h.c2, h.ev]
  split
  · exact ⟨rfl, h.sub, h.sec, rfl, rfl, rfl⟩
  · exact ⟨h.ev, h.sub, h.sec, rfl, rfl, rfl⟩

theorem AgreePastGate.microTick (h : AgreePastGate s t) (c : Config) (inProgress : s.tph ≠ .idle) :
    AgreePastGate (microTick c s) (microTick c t) := by
  unfold Machine.microTick
  rw [← h.tph]
  cases hph : s.tph with
  | idle => exact absurd hph inProgress
  | k1 | k3 => exact h.terminalTest c true _
  | k2 => exact h.microK2 c
  | k4 => exact h.microK4 c
  | k5 =>
    unfold microK5
    rw [h.c1]
    exact h.terminalTest c t.c1 .k6
  | k6 => exact h.microK6 c
  | k7 =>
    unfold microK7
    rw [h.c2]
    exact h.terminalTest c t.c2 .k8
  | k8 => exact h.microK8 c

theorem AgreePastGate.restOfTick (h : AgreePastGate s t) (c : Config) (n : Nat) :
    AgreePastGate (restOfTick c n s) (restOfTick c n t) := by
  induction n generalizing s t with
  | zero => exact h
  | succ n ih =>
    by_cases idle : s.tph = .idle
    · rwa [restOfTick_idle c _ idle, restOfTick_idle c _ (h.tph ▸ idle)]
    · rw [restOfTick_succ_of_tph_ne_idle c n idle, restOfTick_succ_of_tph_ne_idle c n (h.tph ▸ idle)]
      exact ih (h.microTick c idle)

end AgreePastGate

/-! ## The TICKs in progress that an auto-stop ends -/

/-- TPH selects a terminal test whose condition holds: K1 and K3 always, K5 and K7 after their carry. -/
def State.atTerminalTest (s : State) : Prop :=
  s.tph = .k1 ∨ s.tph = .k3 ∨ s.tph = .k5 ∧ s.c1 = true ∨ s.tph = .k7 ∧ s.c2 = true

theorem microTick_of_atTerminalTest {c : Config} {s : State} (test : s.atTerminalTest) (hev : s.ev = c.terminal) :
    microTick c s = s.autoStop := by
  rcases test with hph | hph | ⟨hph, made⟩ | ⟨hph, made⟩
  · simpa [microTick, hph, microK1] using terminalTest_of_terminal .k2 rfl hev
  · simpa [microTick, hph, microK3] using terminalTest_of_terminal .k4 rfl hev
  · simpa [microTick, hph, microK5] using terminalTest_of_terminal .k6 made hev
  · simpa [microTick, hph, microK7] using terminalTest_of_terminal .k8 made hev

theorem State.atTerminalTest.tph_ne_idle {s : State} (test : s.atTerminalTest) : s.tph ≠ .idle := by
  rcases test with hph | hph | ⟨hph, -⟩ | ⟨hph, -⟩ <;> simp [hph]

/-- A terminal test at TERMINAL ends the TICK. -/
theorem restOfTick_of_atTerminalTest {c : Config} (n : Nat) {s : State} (test : s.atTerminalTest)
    (hev : s.ev = c.terminal) : restOfTick c (n + 1) s = s.autoStop := by
  rw [restOfTick_succ_of_tph_ne_idle c n test.tph_ne_idle, microTick_of_atTerminalTest test hev]
  exact restOfTick_idle c n rfl

/-- K3 ends a TICK whose K2 reaches TERMINAL. -/
theorem restOfTick_run_of_k2_to_terminal {c : Config} (n : Nat) {s : State} (hph : s.tph = .k2)
    (reached : s.ev + c.stepH = c.terminal) : (restOfTick c (n + 2) s).run = false := by
  have step : microTick c s = microK2 c s := by simp [microTick, hph]
  have test : (microK2 c s).atTerminalTest := .inr (.inl rfl)
  rw [restOfTick_succ_of_tph_ne_idle c (n + 1) (by simp [hph]), step, restOfTick_of_atTerminalTest n test reached]
  rfl

/-- Before TERMINAL the test K1 goes on to K2. -/
theorem restOfTick_run_of_k1_to_terminal {c : Config} (n : Nat) {s : State} (hph : s.tph = .k1)
    (before : s.ev ≠ c.terminal) (reached : s.ev + c.stepH = c.terminal) :
    (restOfTick c (n + 3) s).run = false := by
  have goOn : microTick c s = s.toTick .k2 := by
    simpa [microTick, hph, microK1] using terminalTest_of_ne_terminal true .k2 before
  rw [restOfTick_succ_of_tph_ne_idle c (n + 2) (by simp [hph]), goOn]
  exact restOfTick_run_of_k2_to_terminal n rfl reached

/-! ## The obligations -/

/-- Settles O37: a TICK past its gate does not read RUN, so START changes nothing it counts, and its auto-stop
clears RUN again; of all rows START alone sets RUN. -/
theorem startSetsRunAndNothingElse : Obligations.StartSetsRunAndNothingElse := by
  refine ⟨fun s pending => ?effect, fun i s t h stopped running => ?alone, fun s _ => ?inTick,
    fun s autoStops => ?undone, fun s t u _ hev _ hstart htick => ?atTerminal⟩
  case effect => exact exec_start_eq_next.mpr ⟨pending, rfl⟩
  case alone =>
    by_contra other
    simp [run_of_stopped_of_exec h stopped other] at running
  case inTick =>
    have agree := (microStart_agreePastGate s).restOfTick Config.block 8
    exact ⟨agree.ev, agree.sub, agree.sec⟩
  case undone =>
    rcases autoStops with ⟨hev, test⟩ | ⟨reached, hph | hph⟩
    · have test' : (microStart s).atTerminalTest := test
      rw [restOfTick_of_atTerminalTest (c := Config.block) 7 test' hev, State.autoStop_run]
    · have before : s.ev ≠ 0x9990 := fun hev => by simp [hev] at reached
      exact restOfTick_run_of_k1_to_terminal 5 hph before reached
    · exact restOfTick_run_of_k2_to_terminal 6 hph reached
  case atTerminal =>
    obtain ⟨-, rfl⟩ := exec_start_eq_next.mp hstart
    obtain ⟨-, rfl⟩ := whenEnabled_eq_next.mp htick
    rw [wholeTick_of_terminal rfl hev]
    exact ⟨hev, rfl⟩

/-- Settles O39: a TICK past its gate does not read RUN, so it counts on after a STOP and leaves RUN clear; a START
then writes back the only register that STOP wrote. -/
theorem stopClearsRunAndNothingElse : Obligations.StopClearsRunAndNothingElse := by
  refine ⟨fun s pending => ?effect, fun s _ => ?inTick, fun s t u _ _ hstop hstart => ?resume⟩
  case effect => exact exec_stop_eq_next.mpr ⟨pending, rfl⟩
  case inTick =>
    have agree := (microStop_agreePastGate s).restOfTick Config.block 8
    exact ⟨agree.ev, agree.sub, agree.sec, restOfTick_run_of_stopped Config.block 8 rfl⟩
  case resume =>
    obtain ⟨-, rfl⟩ := exec_stop_eq_next.mp hstop
    obtain ⟨-, rfl⟩ := exec_start_eq_next.mp hstart
    have bothBits : (s.pend &&& ~~~pendVector .stop) &&& ~~~pendVector .start = s.pend &&& 0x1A :=
      BitVec.and_assoc ..
    simp [microStart, microStop, State.clear, bothBits]

end Sys2Proof.Machine

/-! PROOFS. The decoder and the encoder: each reads what the other writes, and the decoder is the mask and match of
the table (spec/30_encoding.md, spec/opcode_table.json). -/

namespace Sys2Proof

/-! ## The encoder, then the decoder -/

theorem Format.ofNumber_number (f : Format) : Format.ofNumber f.number = some f := by
  cases f <;> rfl

/-- The bits of a row without an operand are its match; those of a row with one are looked at for each operand. -/
theorem decode_encodeBits {i : Instr} (h : i.wf = true) : decode i.row.format (encodeBits i) = .instr i := by
  cases i
  case advClamp67 cur => revert cur; decide
  case d3decGen07 f => revert f; decide
  case d3decGenAB f => revert f; decide
  case d3decGenCD f => revert f; decide
  case encOorAB d => revert d; decide
  case encOorCF d => revert d; decide
  all_goals rfl

/-- A trace word whose second byte is the number of a format is read in that format. -/
theorem decodeBytes_number (f : Format) (b : Byte) : decodeBytes b f.number = decode f b := by
  simp [decodeBytes, Format.ofNumber_number]

/-! ## The decoder as mask and match -/

/-- A byte that uses no bit above a format's width is the format's bits, widened. -/
theorem eq_setWidth_of_lt_width {f : Format} {b : Byte} (h : b.toNat < 2 ^ f.width) :
    b = (b.setWidth f.width).setWidth 8 := by
  apply BitVec.eq_of_toNat_eq
  simp [Nat.mod_eq_of_lt h, Nat.mod_eq_of_lt b.isLt]

theorem decode_of_width_le {f : Format} {b : Byte} (h : 2 ^ f.width ≤ b.toNat) :
    decode f b = .rejected .unusedBits :=
  if_pos h

/-- What the decoder answers for the bits of a format is a well-formed row that these bits fit, or no row. -/
def Decoded.soundFor (f : Format) (b : Byte) : Decoded → Bool
  | .instr i => i.wf && i.row.fits f b
  | .rejected _ => true

theorem decode_soundFor (f : Format) (b : Byte) : (decode f b).soundFor f b = true := by
  by_cases unused : 2 ^ f.width ≤ b.toNat
  · rw [decode_of_width_le unused]; rfl
  · rw [eq_setWidth_of_lt_width (not_le.mp unused)]
    generalize b.setWidth f.width = v
    cases f <;> revert v <;> decide

/-- What the decoder answers is a row that has the given columns in the table. -/
def Decoded.hasRow (r : Row) : Decoded → Bool
  | .instr i => i.row == r
  | .rejected _ => false

theorem exists_instr_of_hasRow {r : Row} {d : Decoded} (h : d.hasRow r = true) :
    ∃ j : Instr, d = .instr j ∧ j.row = r := by
  cases d with
  | instr j => exact ⟨j, rfl, by simpa [Decoded.hasRow] using h⟩
  | rejected e => cases h

theorem decode_hasRow_of_fits {f : Format} {b : Byte} {i : Instr} (h : i.row.fits f b = true) :
    (decode f b).hasRow i.row = true := by
  obtain ⟨⟨rfl, used⟩, -⟩ : (i.row.format = f ∧ b.toNat < 2 ^ f.width) ∧ b &&& i.row.mask = i.row.value := by
    simpa [Row.fits] using h
  rw [eq_setWidth_of_lt_width used] at h ⊢
  clear used
  generalize b.setWidth i.row.format.width = v at h ⊢
  cases i
  case advClamp67 cur => revert cur v; decide
  case d3decGen07 f => revert f v; decide
  case d3decGenAB f => revert f v; decide
  case d3decGenCD f => revert f v; decide
  case encOorAB d => revert d v; decide
  case encOorCF d => revert d v; decide
  all_goals revert v; decide

end Sys2Proof

namespace Sys2Proof.Machine

/-! ## The obligations -/

/-- Settles O3: the trace word's second byte names the format in which the encoder wrote the bits. -/
theorem decodeOfEncodeIsTheRow : Obligations.DecodeOfEncodeIsTheRow := fun i h =>
  ⟨decode_encodeBits h, (decodeBytes_number i.row.format (encodeBits i)).trans (decode_encodeBits h)⟩

/-- Settles O4: the decoder is looked at on all the bits of each format, and no byte above a format's width has a
row. -/
theorem decodeIsTheMaskAndMatchOfTheTable : Obligations.DecodeIsTheMaskAndMatchOfTheTable := by
  refine ⟨fun f b i h => ?_, fun f b i _ fits => exists_instr_of_hasRow (decode_hasRow_of_fits fits)⟩
  have sound := decode_soundFor f b
  simpa [h, Decoded.soundFor] using sound

/-- Settles O6: words written out from the tables, not from the decoder. -/
theorem writtenOutWordsDecode : Obligations.WrittenOutWordsDecode := by
  unfold Obligations.WrittenOutWordsDecode
  decide

end Sys2Proof.Machine

/-! PROOFS. The fields of EV as decimal digits: what the additions and masks of TICK do to them
(spec/30_encoding.md rule R74, spec/42_elapsed_counter.md). -/

namespace Sys2Proof.Machine

/-! ## Fields as bits and as numbers -/

/-- field(k) of rule R74 is the k-th nibble. -/
theorem field_eq_extractLsb' (ev : EvWord) (k : Nat) : field ev k = ev.extractLsb' (4 * k) 4 := by
  ext i hi
  have inMask : (0xF#16).getLsbD i = true := by
    interval_cases i <;> rfl
  simpa [field, inMask] using BitVec.lt_of_getLsbD

theorem field_toNat (ev : EvWord) (k : Nat) : (field ev k).toNat = ev.toNat / 16 ^ k % 16 := by
  rw [field_eq_extractLsb', BitVec.extractLsb'_toNat, Nat.shiftRight_eq_div_pow, Nat.pow_mul]

theorem field_and (a b : EvWord) (k : Nat) : field (a &&& b) k = field a k &&& field b k := by
  simp only [field_eq_extractLsb', BitVec.extractLsb'_and]

/-- The four fields of a word, as numbers. -/
structure HasFields (ev : EvWord) (f3 f2 f1 f0 : Nat) : Prop where
  field3 : (field ev 3).toNat = f3
  field2 : (field ev 2).toNat = f2
  field1 : (field ev 1).toNat = f1
  field0 : (field ev 0).toNat = f0

theorem hasFields_iff {ev : EvWord} {f3 f2 f1 f0 : Nat} :
    HasFields ev f3 f2 f1 f0 ↔
      ev.toNat = f3 * 4096 + f2 * 256 + f1 * 16 + f0 ∧ f3 < 16 ∧ f2 < 16 ∧ f1 < 16 ∧ f0 < 16 := by
  have bound := ev.isLt
  constructor
  · rintro ⟨h3, h2, h1, h0⟩
    simp only [field_toNat] at h3 h2 h1 h0
    omega
  · rintro ⟨h, h3, h2, h1, h0⟩
    constructor <;> rw [field_toNat] <;> omega

theorem HasFields.eq {a b : EvWord} {f3 f2 f1 f0 : Nat} (ha : HasFields a f3 f2 f1 f0)
    (hb : HasFields b f3 f2 f1 f0) : a = b :=
  BitVec.eq_of_toNat_eq ((hasFields_iff.mp ha).1.trans (hasFields_iff.mp hb).1.symm)

theorem hasFields_self (ev : EvWord) :
    HasFields ev (field ev 3).toNat (field ev 2).toNat (field ev 1).toNat (field ev 0).toNat :=
  ⟨rfl, rfl, rfl, rfl⟩

/-! ## The arithmetic of TICK on the fields -/

section
variable {ev : EvWord} {f3 f2 f1 f0 : Nat}

theorem HasFields.addStepH (h : HasFields ev f3 f2 f1 f0) (room : f1 < 15) :
    HasFields (ev + 0x0010) f3 f2 (f1 + 1) f0 := by
  rw [hasFields_iff] at h ⊢
  simp only [BitVec.toNat_add, BitVec.ofNat_eq_ofNat, BitVec.toNat_ofNat]
  omega

theorem HasFields.addStepS (h : HasFields ev f3 f2 f1 f0) (room : f2 < 15) :
    HasFields (ev + 0x0100) f3 (f2 + 1) f1 f0 := by
  rw [hasFields_iff] at h ⊢
  simp only [BitVec.toNat_add, BitVec.ofNat_eq_ofNat, BitVec.toNat_ofNat]
  omega

theorem HasFields.addStepM (h : HasFields ev f3 f2 f1 f0) (room : f3 < 15) :
    HasFields (ev + 0x1000) (f3 + 1) f2 f1 f0 := by
  rw [hasFields_iff] at h ⊢
  simp only [BitVec.toNat_add, BitVec.ofNat_eq_ofNat, BitVec.toNat_ofNat]
  omega

/-- A mask that has 0xF in a field keeps the field. -/
theorem field_and_keep {mask : EvWord} {k : Nat} (h : field mask k = BitVec.allOnes 4) :
    field (ev &&& mask) k = field ev k := by
  rw [field_and, h, BitVec.and_allOnes]

/-- A mask that has 0 in a field clears the field. -/
theorem field_and_clear {mask : EvWord} {k : Nat} (h : field mask k = 0#4) : field (ev &&& mask) k = 0#4 := by
  rw [field_and, h, BitVec.and_zero]

theorem HasFields.maskS (h : HasFields ev f3 f2 f1 f0) : HasFields (ev &&& 0xFF0F) f3 f2 0 f0 where
  field3 := by rw [field_and_keep rfl, h.field3]
  field2 := by rw [field_and_keep rfl, h.field2]
  field1 := by rw [field_and_clear rfl]; rfl
  field0 := by rw [field_and_keep rfl, h.field0]

theorem HasFields.maskM (h : HasFields ev f3 f2 f1 f0) : HasFields (ev &&& 0xF0FF) f3 0 f1 f0 where
  field3 := by rw [field_and_keep rfl, h.field3]
  field2 := by rw [field_and_clear rfl]; rfl
  field1 := by rw [field_and_keep rfl, h.field1]
  field0 := by rw [field_and_keep rfl, h.field0]

theorem HasFields.maskSafe (h : HasFields ev f3 f2 f1 f0) : HasFields (ev &&& 0xFFF0) f3 f2 f1 0 where
  field3 := by rw [field_and_keep rfl, h.field3]
  field2 := by rw [field_and_keep rfl, h.field2]
  field1 := by rw [field_and_keep rfl, h.field1]
  field0 := by rw [field_and_clear rfl]; rfl

/-- The seconds carry: F2 goes up and F1 is cleared, whatever F1 held. -/
theorem HasFields.carryS (h : HasFields ev f3 f2 f1 f0) (room : f2 < 15) :
    HasFields ((ev + 0x0100) &&& 0xFF0F) f3 (f2 + 1) 0 f0 :=
  (h.addStepS room).maskS

/-- The minutes carry: F3 goes up and F2 is cleared, whatever F2 held. -/
theorem HasFields.carryM (h : HasFields ev f3 f2 f1 f0) (room : f3 < 15) :
    HasFields ((ev + 0x1000) &&& 0xF0FF) (f3 + 1) 0 f1 f0 :=
  (h.addStepM room).maskM

end

/-! ## The fields of a state -/

/-- The digits of a state whose EV has the given fields. -/
theorem HasFields.f_eq {s : State} {f3 f2 f1 f0 : Nat} (h : HasFields s.ev f3 f2 f1 f0) :
    s.f 3 = f3 ∧ s.f 2 = f2 ∧ s.f 1 = f1 ∧ s.f 0 = f0 :=
  ⟨h.field3, h.field2, h.field1, h.field0⟩

theorem State.hasFields (s : State) : HasFields s.ev (s.f 3) (s.f 2) (s.f 1) (s.f 0) := hasFields_self s.ev

theorem HasFields.eq_iff {a b : EvWord} {f3 f2 f1 f0 g3 g2 g1 g0 : Nat} (ha : HasFields a f3 f2 f1 f0)
    (hb : HasFields b g3 g2 g1 g0) : a = b ↔ f3 = g3 ∧ f2 = g2 ∧ f1 = g1 ∧ f0 = g0 := by
  constructor
  · rintro rfl
    exact ⟨ha.field3.symm.trans hb.field3, ha.field2.symm.trans hb.field2, ha.field1.symm.trans hb.field1,
      ha.field0.symm.trans hb.field0⟩
  · rintro ⟨rfl, rfl, rfl, rfl⟩
    exact ha.eq hb

theorem HasFields.eq_terminal_iff {ev : EvWord} {f3 f2 f1 f0 : Nat} (h : HasFields ev f3 f2 f1 f0) :
    ev = 0x9990 ↔ f3 = 9 ∧ f2 = 9 ∧ f1 = 9 ∧ f0 = 0 :=
  h.eq_iff ⟨rfl, rfl, rfl, rfl⟩

theorem HasFields.eq_0x99A0_iff {ev : EvWord} {f3 f2 f1 f0 : Nat} (h : HasFields ev f3 f2 f1 f0) :
    ev = 0x99A0 ↔ f3 = 9 ∧ f2 = 9 ∧ f1 = 10 ∧ f0 = 0 :=
  h.eq_iff ⟨rfl, rfl, rfl, rfl⟩

/-- A seconds carry clears F1, which is 9 in TERMINAL. -/
theorem maskS_ne_terminal (ev : EvWord) : ev &&& 0xFF0F ≠ 0x9990 := fun h => by
  have fields := (hasFields_self ev).maskS.eq_terminal_iff.mp h
  omega

/-- A minutes carry clears F2, which is 9 in TERMINAL. -/
theorem maskM_ne_terminal (ev : EvWord) : ev &&& 0xF0FF ≠ 0x9990 := fun h => by
  have fields := (hasFields_self ev).maskM.eq_terminal_iff.mp h
  omega

end Sys2Proof.Machine

/-! PROOFS. The invariant of the counter, phase by phase, and that every micro-operation of TICK keeps it
(spec/42_elapsed_counter.md section 4). -/

namespace Sys2Proof.Machine

/-! ## The invariant at each phase -/

/-- Every field, SUB and SEC is a decimal digit, F0 is 0, and SUB and SEC stand to the fields as in a run. -/
def State.settled (s : State) : Prop :=
  s.f 0 = 0 ∧ s.f 1 ≤ 9 ∧ s.f 2 ≤ 9 ∧ s.f 3 ≤ 9 ∧ s.sub.toNat ≤ 9 ∧ s.sec.toNat ≤ 9 ∧ s.related

/-- After the hundredths step F1 and SUB may be 10. -/
def State.stepped (s : State) : Prop :=
  s.f 0 = 0 ∧ s.f 1 ≤ 10 ∧ s.f 2 ≤ 9 ∧ s.f 3 ≤ 9 ∧ s.sub.toNat ≤ 10 ∧ s.sec.toNat ≤ 9 ∧ s.related ∧
    1 ≤ s.sub.toNat ∧ s.ev ≠ 0x99A0

/-- After the seconds carry F2 and SEC may be 10. -/
def State.carried (s : State) : Prop :=
  s.f 0 = 0 ∧ s.f 1 ≤ 9 ∧ s.f 2 ≤ 10 ∧ s.f 3 ≤ 9 ∧ s.sub.toNat ≤ 9 ∧
    (s.sec.toNat ≤ 9 ∨ (s.sec.toNat = 10 ∧ s.c1 = true ∧ s.f 3 ≤ 8)) ∧ s.related

section
variable {s : State}

theorem counterInv_iff_of_idle_or_k1 (h : s.tph = .idle ∨ s.tph = .k1) :
    s.CounterInv ↔ s.settled ∧ s.c1 = false ∧ s.c2 = false := by
  constructor
  · rintro ⟨f0, f1, f2, f3, sub, sec, rel, -, -, c1, c2⟩
    rcases h with h | h <;> simp_all [State.stepping, State.carrying, State.settled]
  · rintro ⟨⟨f0, f1, f2, f3, sub, sec, rel⟩, c1, c2⟩
    constructor <;> rcases h with h | h <;> simp_all [State.stepping, State.carrying]

theorem counterInv_iff_of_k2 (h : s.tph = .k2) :
    s.CounterInv ↔ s.settled ∧ s.ev ≠ 0x9990 ∧ s.c1 = false ∧ s.c2 = false := by
  constructor
  · rintro ⟨f0, f1, f2, f3, sub, sec, rel, -, notTerminal, c1, c2⟩
    simp_all [State.stepping, State.carrying, State.settled]
  · rintro ⟨⟨f0, f1, f2, f3, sub, sec, rel⟩, notTerminal, c1, c2⟩
    constructor <;> simp_all [State.stepping, State.carrying]

theorem counterInv_iff_of_k3_or_k4 (h : s.tph = .k3 ∨ s.tph = .k4) :
    s.CounterInv ↔ s.stepped ∧ (s.tph = .k4 → s.ev ≠ 0x9990) ∧ s.c1 = false ∧ s.c2 = false := by
  constructor
  · rintro ⟨f0, f1, f2, f3, sub, sec, rel, step, notTerminal, c1, c2⟩
    rcases h with h | h <;> simp_all [State.stepping, State.carrying, State.stepped] <;> omega
  · rintro ⟨⟨f0, f1, f2, f3, sub, sec, rel, step⟩, notTerminal, c1, c2⟩
    constructor <;> rcases h with h | h <;> simp_all [State.stepping, State.carrying] <;> omega

theorem counterInv_iff_of_k5_or_k6 (h : s.tph = .k5 ∨ s.tph = .k6) :
    s.CounterInv ↔ s.carried ∧ s.ev ≠ 0x9990 ∧ (s.c1 = true → s.sub = 0) ∧ s.c2 = false := by
  constructor
  · rintro ⟨f0, f1, f2, f3, sub, sec, rel, -, notTerminal, c1, c2⟩
    rcases h with h | h <;> simp_all [State.stepping, State.carrying, State.carried] <;> omega
  · rintro ⟨⟨f0, f1, f2, f3, sub, sec, rel⟩, notTerminal, c1, c2⟩
    constructor <;> rcases h with h | h <;> simp_all [State.stepping, State.carrying] <;> omega

theorem counterInv_iff_of_k7_or_k8 (h : s.tph = .k7 ∨ s.tph = .k8) :
    s.CounterInv ↔ s.settled ∧ s.ev ≠ 0x9990 ∧ (s.c1 = true → s.sub = 0) ∧
      (s.c2 = true → s.c1 = true ∧ s.sec = 0) := by
  constructor
  · rintro ⟨f0, f1, f2, f3, sub, sec, rel, -, notTerminal, c1, c2⟩
    rcases h with h | h <;> simp_all [State.stepping, State.carrying, State.settled]
  · rintro ⟨⟨f0, f1, f2, f3, sub, sec, rel⟩, notTerminal, c1, c2⟩
    constructor <;> rcases h with h | h <;> simp_all [State.stepping, State.carrying]

end

/-! ## Every micro-operation of TICK keeps it -/

theorem nibble_add_one {x : Nibble} (h : x.toNat < 15) : (x + 1).toNat = x.toNat + 1 := by
  simp only [BitVec.toNat_add, BitVec.ofNat_eq_ofNat, BitVec.toNat_ofNat]
  omega

/-! What the carries K4 and K6 write. -/

theorem microK4_of_carry {s : State} (h : s.sub = 10) :
    (microK4 Config.block s).tph = .k5 ∧ (microK4 Config.block s).ev = (s.ev + 0x0100) &&& 0xFF0F ∧
      (microK4 Config.block s).sub = 0 ∧ (microK4 Config.block s).sec = s.sec + 1 ∧
      (microK4 Config.block s).c1 = true ∧ (microK4 Config.block s).c2 = s.c2 := by
  simp [microK4, Config.block, h, addMask]

theorem microK4_of_no_carry {s : State} (h : s.sub ≠ 10) : microK4 Config.block s = s.toTick .k5 :=
  if_neg (by simpa [Config.block] using h)

theorem microK6_of_carry {s : State} (h : s.sec = 10) :
    (microK6 Config.block s).tph = .k7 ∧ (microK6 Config.block s).ev = (s.ev + 0x1000) &&& 0xF0FF ∧
      (microK6 Config.block s).sub = s.sub ∧ (microK6 Config.block s).sec = 0 ∧
      (microK6 Config.block s).c1 = s.c1 ∧ (microK6 Config.block s).c2 = true := by
  simp [microK6, Config.block, h, addMask]

theorem microK6_of_no_carry {s : State} (h : s.sec ≠ 10) : microK6 Config.block s = s.toTick .k7 :=
  if_neg (by simpa [Config.block] using h)

/-- K8 ends the TICK and writes EV alone. -/
theorem microK8_eq (c : Config) (s : State) :
    microK8 c s = { s.endTick with ev := (microK8 c s).ev } := by
  unfold microK8
  split <;> rfl

section
variable {s : State} (inv : s.CounterInv)
include inv

theorem microK0_counterInv (h : s.tph = .idle) : (microK0 s).CounterInv := by
  obtain ⟨settled, c1, c2⟩ := (counterInv_iff_of_idle_or_k1 (.inl h)).mp inv
  unfold microK0
  split
  · exact (counterInv_iff_of_idle_or_k1 (.inr rfl)).mpr ⟨settled, c1, c2⟩
  · exact (counterInv_iff_of_idle_or_k1 (.inl rfl)).mpr ⟨settled, rfl, rfl⟩

theorem microK1_counterInv (h : s.tph = .k1) : (microK1 Config.block s).CounterInv := by
  obtain ⟨settled, c1, c2⟩ := (counterInv_iff_of_idle_or_k1 (.inr h)).mp inv
  rw [microK1, terminalTest_block]
  split
  case isTrue => exact (counterInv_iff_of_idle_or_k1 (.inl rfl)).mpr ⟨settled, rfl, rfl⟩
  case isFalse before =>
    exact (counterInv_iff_of_k2 rfl).mpr ⟨settled, fun hev => before ⟨rfl, hev⟩, c1, c2⟩

/-- F1 and SUB go up together; 0x99A0 is not reached because EV was not at TERMINAL. -/
theorem microK2_counterInv (h : s.tph = .k2) : (microK2 Config.block s).CounterInv := by
  obtain ⟨⟨hf0, hf1, hf2, hf3, hsub, hsec, rel⟩, before, c1, c2⟩ := (counterInv_iff_of_k2 h).mp inv
  rw [Ne, s.hasFields.eq_terminal_iff] at before
  have fields : HasFields (microK2 Config.block s).ev (s.f 3) (s.f 2) (s.f 1 + 1) (s.f 0) :=
    s.hasFields.addStepH (by omega)
  have sub' : (microK2 Config.block s).sub.toNat = s.sub.toNat + 1 := nibble_add_one (by omega)
  have sec' : (microK2 Config.block s).sec = s.sec := rfl
  refine (counterInv_iff_of_k3_or_k4 (.inl rfl)).mpr ⟨?_, nofun, c1, c2⟩
  obtain ⟨f3', f2', f1', f0'⟩ := fields.f_eq
  unfold State.related at rel
  rw [State.stepped, State.related, Ne, fields.eq_0x99A0_iff, f3', f2', f1', f0', sub', sec']
  omega

/-- At TERMINAL no field is 10 and none was cleared by a RST, so SUB and SEC are digits too. -/
theorem microK3_counterInv (h : s.tph = .k3) : (microK3 Config.block s).CounterInv := by
  obtain ⟨stepped, -, c1, c2⟩ := (counterInv_iff_of_k3_or_k4 (.inl h)).mp inv
  rw [microK3, terminalTest_block]
  split
  case isTrue atTerminal =>
    refine (counterInv_iff_of_idle_or_k1 (.inl rfl)).mpr ⟨?_, rfl, rfl⟩
    obtain ⟨hf3, hf2, hf1, hf0⟩ := s.hasFields.eq_terminal_iff.mp atTerminal.2
    obtain ⟨-, -, -, -, -, hsec, rel, -⟩ := stepped
    change s.settled
    unfold State.related at rel
    unfold State.settled State.related
    omega
  case isFalse before =>
    exact (counterInv_iff_of_k3_or_k4 (.inr rfl)).mpr ⟨stepped, fun _ hev => before ⟨rfl, hev⟩, c1, c2⟩

/-- The carry clears F1 and SUB; SEC reaches 10 only with F3 at most 8, because 0x99A0 does not come before it. -/
theorem microK4_counterInv (h : s.tph = .k4) : (microK4 Config.block s).CounterInv := by
  obtain ⟨⟨hf0, hf1, hf2, hf3, hsub, hsec, rel, -, notOverflowing⟩, before, c1, c2⟩ :=
    (counterInv_iff_of_k3_or_k4 (.inr h)).mp inv
  rw [Ne, s.hasFields.eq_0x99A0_iff] at notOverflowing
  unfold State.related at rel
  by_cases carry : s.sub = 10
  · obtain ⟨tph', ev', sub', sec', c1', c2'⟩ := microK4_of_carry carry
    have hsub10 : s.sub.toNat = 10 := by rw [carry]; rfl
    have fields : HasFields (microK4 Config.block s).ev (s.f 3) (s.f 2 + 1) 0 (s.f 0) :=
      ev' ▸ s.hasFields.carryS (by omega)
    have hsub' : (microK4 Config.block s).sub.toNat = 0 := by rw [sub']; rfl
    have hsec' : (microK4 Config.block s).sec.toNat = s.sec.toNat + 1 := by rw [sec', nibble_add_one (by omega)]
    obtain ⟨f3', f2', f1', f0'⟩ := fields.f_eq
    refine (counterInv_iff_of_k5_or_k6 (.inl tph')).mpr ⟨?_, ?_, fun _ => sub', c2'.trans c2⟩
    · simp only [State.carried, State.related, f3', f2', f1', f0', hsub', hsec', c1', true_and]
      omega
    · rw [Ne, fields.eq_terminal_iff]
      omega
  · have hsub10 : s.sub.toNat ≠ 10 := fun hsub => carry (BitVec.eq_of_toNat_eq hsub)
    rw [microK4_of_no_carry carry]
    refine (counterInv_iff_of_k5_or_k6 (.inl rfl)).mpr ⟨?_, before h, by simp [c1], c2⟩
    change s.carried
    unfold State.carried State.related
    omega

/-- K5 never stops: EV is not at TERMINAL between the carries. -/
theorem microK5_counterInv (h : s.tph = .k5) : (microK5 Config.block s).CounterInv := by
  obtain ⟨carried, before, c1, c2⟩ := (counterInv_iff_of_k5_or_k6 (.inl h)).mp inv
  rw [microK5, terminalTest_of_ne_terminal _ _ before]
  exact (counterInv_iff_of_k5_or_k6 (.inr rfl)).mpr ⟨carried, before, c1, c2⟩

/-- The carry clears F2 and SEC and takes F3 to at most 9. -/
theorem microK6_counterInv (h : s.tph = .k6) : (microK6 Config.block s).CounterInv := by
  obtain ⟨⟨hf0, hf1, hf2, hf3, hsub, hsec, rel⟩, before, c1, c2⟩ := (counterInv_iff_of_k5_or_k6 (.inr h)).mp inv
  unfold State.related at rel
  by_cases carry : s.sec = 10
  · obtain ⟨tph', ev', sub', sec', c1', c2'⟩ := microK6_of_carry carry
    have hsec10 : s.sec.toNat = 10 := by rw [carry]; rfl
    obtain ⟨-, afterFirst, room⟩ := hsec.resolve_left (by omega)
    have hsub0 : s.sub.toNat = 0 := by rw [c1 afterFirst]; rfl
    have fields : HasFields (microK6 Config.block s).ev (s.f 3 + 1) 0 (s.f 1) (s.f 0) :=
      ev' ▸ s.hasFields.carryM (by omega)
    have hsec' : (microK6 Config.block s).sec.toNat = 0 := by rw [sec']; rfl
    obtain ⟨f3', f2', f1', f0'⟩ := fields.f_eq
    refine (counterInv_iff_of_k7_or_k8 (.inl tph')).mpr
      ⟨?_, ?_, fun _ => sub'.trans (c1 afterFirst), fun _ => ⟨c1'.trans afterFirst, sec'⟩⟩
    · rw [State.settled, State.related, f3', f2', f1', f0', sub', hsec']
      omega
    · rw [Ne, fields.eq_terminal_iff]
      omega
  · have hsec10 : s.sec.toNat ≠ 10 := fun hsec => carry (BitVec.eq_of_toNat_eq hsec)
    rw [microK6_of_no_carry carry]
    refine (counterInv_iff_of_k7_or_k8 (.inl rfl)).mpr ⟨?_, before, c1, by simp [c2]⟩
    change s.settled
    unfold State.settled State.related
    omega

/-- K7 never stops: EV is not at TERMINAL after the carries. -/
theorem microK7_counterInv (h : s.tph = .k7) : (microK7 Config.block s).CounterInv := by
  obtain ⟨settled, before, c1, c2⟩ := (counterInv_iff_of_k7_or_k8 (.inl h)).mp inv
  rw [microK7, terminalTest_of_ne_terminal _ _ before]
  exact (counterInv_iff_of_k7_or_k8 (.inr rfl)).mpr ⟨settled, before, c1, c2⟩

/-- The safety net changes nothing: F0 is 0 in a run. -/
theorem microK8_ev_of_counterInv : (microK8 Config.block s).ev = s.ev := by
  unfold microK8
  split
  · refine s.hasFields.maskSafe.eq ?_
    rw [← inv.f0_zero]
    exact s.hasFields
  · rfl

theorem microK8_counterInv (h : s.tph = .k8) : (microK8 Config.block s).CounterInv := by
  obtain ⟨settled, -, -, -⟩ := (counterInv_iff_of_k7_or_k8 (.inr h)).mp inv
  have same : microK8 Config.block s = s.endTick := by
    rw [microK8_eq, microK8_ev_of_counterInv inv]
    rfl
  rw [same]
  exact (counterInv_iff_of_idle_or_k1 (.inl rfl)).mpr ⟨settled, rfl, rfl⟩

theorem microTick_counterInv : (microTick Config.block s).CounterInv := by
  unfold microTick
  cases h : s.tph with
  | idle => exact microK0_counterInv inv h
  | k1 => exact microK1_counterInv inv h
  | k2 => exact microK2_counterInv inv h
  | k3 => exact microK3_counterInv inv h
  | k4 => exact microK4_counterInv inv h
  | k5 => exact microK5_counterInv inv h
  | k6 => exact microK6_counterInv inv h
  | k7 => exact microK7_counterInv inv h
  | k8 => exact microK8_counterInv inv h

theorem wholeTick_counterInv (h : s.tph = .idle) : (wholeTick Config.block s).CounterInv :=
  restOfTick_keeps Config.block (P := State.CounterInv) (fun _ _ inv => microTick_counterInv inv) 8
    (microK0_counterInv inv h)

end

end Sys2Proof.Machine

/-! PROOFS. The frame of TICK and of the buttons, and what ADV does micro-operation by micro-operation
(spec/42_elapsed_counter.md rule R147, spec/43_buttons.md, spec/41_digit_multiplexer.md). -/

namespace Sys2Proof.Machine

/-! ## The frame of TICK -/

/-- What a TICK past its gate leaves as it was (rule R147): the display's registers, PEND and the model's own
fields. -/
structure TickFrame (s t : State) : Prop where
  display : t.displayPart = s.displayPart
  pend : t.pend = s.pend
  draws : t.draws = s.draws
  choices : t.choices = s.choices
  agenda : t.agenda = s.agenda

theorem TickFrame.trans {s t u : State} (h₁ : TickFrame s t) (h₂ : TickFrame t u) : TickFrame s u where
  display := h₂.display.trans h₁.display
  pend := h₂.pend.trans h₁.pend
  draws := h₂.draws.trans h₁.draws
  choices := h₂.choices.trans h₁.choices
  agenda := h₂.agenda.trans h₁.agenda

theorem terminalTest_frame (c : Config) (made : Bool) (next : TickPhase) (s : State) :
    TickFrame s (terminalTest c made next s) := by
  unfold terminalTest
  split <;> exact ⟨rfl, rfl, rfl, rfl, rfl⟩

/-- K0 clears PEND[4] and leaves the rest of the frame. -/
theorem microK0_frame (s : State) : TickFrame (s.clear .slow) (microK0 s) := by
  unfold microK0
  split <;> exact ⟨rfl, rfl, rfl, rfl, rfl⟩

theorem microK4_frame (c : Config) (s : State) : TickFrame s (microK4 c s) := by
  unfold microK4
  split <;> exact ⟨rfl, rfl, rfl, rfl, rfl⟩

theorem microK6_frame (c : Config) (s : State) : TickFrame s (microK6 c s) := by
  unfold microK6
  split <;> exact ⟨rfl, rfl, rfl, rfl, rfl⟩

theorem microK8_frame (c : Config) (s : State) : TickFrame s (microK8 c s) := by
  unfold microK8
  split <;> exact ⟨rfl, rfl, rfl, rfl, rfl⟩

theorem microTick_frame (c : Config) {s : State} (inProgress : s.tph ≠ .idle) : TickFrame s (microTick c s) := by
  unfold microTick
  cases h : s.tph with
  | idle => exact absurd h inProgress
  | k1 | k3 | k5 | k7 => exact terminalTest_frame c _ _ s
  | k2 => exact ⟨rfl, rfl, rfl, rfl, rfl⟩
  | k4 => exact microK4_frame c s
  | k6 => exact microK6_frame c s
  | k8 => exact microK8_frame c s

theorem wholeTick_frame (c : Config) (s : State) : TickFrame (s.clear .slow) (wholeTick c s) :=
  restOfTick_keeps c (P := TickFrame (s.clear .slow))
    (fun _ inProgress frame => frame.trans (microTick_frame c inProgress)) 8 (microK0_frame s)

theorem microTick_of_idle (c : Config) {s : State} (h : s.tph = .idle) : microTick c s = microK0 s := by
  simp [microTick, h]

theorem microTick_displayPart (c : Config) (s : State) : (microTick c s).displayPart = s.displayPart := by
  by_cases h : s.tph = .idle
  · rw [microTick_of_idle c h]
    exact (microK0_frame s).display
  · exact (microTick_frame c h).display

theorem microTick_draws (c : Config) (s : State) : (microTick c s).draws = s.draws := by
  by_cases h : s.tph = .idle
  · rw [microTick_of_idle c h]
    exact (microK0_frame s).draws
  · exact (microTick_frame c h).draws

theorem wholeTick_displayPart (c : Config) (s : State) : (wholeTick c s).displayPart = s.displayPart :=
  (wholeTick_frame c s).display

/-! ## RST in the block -/

/-- In the block RST leaves SUB and SEC (decision D10). -/
theorem microRst_block (s : State) : microRst Config.block s = { s.clear .rst with ev := 0x0000, run := false } := rfl

/-! ## ADV, micro-operation by micro-operation -/

theorem microA3_aph (c : Config) (s : State) : (microA3 c s).aph = .a4 := by
  unfold microA3
  split <;> rfl

/-- Where no ADV is in progress, an uninterrupted one is the six micro-operations APH selects. -/
theorem wholeAdv_eq_microAdv (c : Config) {s : State} (h : s.aph = .idle) :
    wholeAdv c s = microAdv c (microAdv c (microAdv c (microAdv c (microAdv c (microAdv c s))))) := by
  simp [microAdv, h, microA0, microA1, microA2, microA3_aph, microA4, wholeAdv]

/-- A property that every micro-operation of ADV keeps holds after an uninterrupted ADV. -/
theorem wholeAdv_keeps (c : Config) {P : State → Prop} (micro : ∀ s, P s → P (microAdv c s)) {s : State}
    (idle : s.aph = .idle) (h : P s) : P (wholeAdv c s) := by
  rw [wholeAdv_eq_microAdv c idle]
  exact micro _ (micro _ (micro _ (micro _ (micro _ (micro _ h)))))

end Sys2Proof.Machine

/-! PROOFS. The invariant of a run: at reset, over every row and every turn, and what follows of it for the states a
run reaches (spec/42_elapsed_counter.md section 4, spec/41_digit_multiplexer.md section 4). -/

namespace Sys2Proof.Machine

/-! ## What the invariant reads -/

section
variable {s t : State}

/-- The invariant of the counter does not read RUN. -/
theorem State.CounterInv.congr (inv : s.CounterInv) (h : AgreePastGate s t) : t.CounterInv := by
  obtain ⟨ev, sub, sec, tph, c1, c2⟩ := h
  cases s
  cases t
  dsimp only at ev sub sec tph c1 c2
  subst ev sub sec tph c1 c2
  exact ⟨inv.f0_zero, inv.f1_range, inv.f2_range, inv.f3_range, inv.sub_range, inv.sec_range, inv.relation,
    inv.sub_stepped, inv.not_terminal, inv.c1_phase, inv.c2_phase⟩

theorem agreePastGate_of_counterPart (h : t.counterPart = s.counterPart) : AgreePastGate s t := by
  simp only [State.counterPart, Prod.mk.injEq] at h
  obtain ⟨ev, -, sub, sec, tph, c1, c2⟩ := h
  exact ⟨ev.symm, sub.symm, sec.symm, tph.symm, c1.symm, c2.symm⟩

theorem State.DisplayInv.congr (inv : s.DisplayInv) (h : t.displayPart = s.displayPart) : t.DisplayInv := by
  simp only [State.displayPart, Prod.mk.injEq] at h
  obtain ⟨cur, -, dsel, aph, p, d⟩ := h
  exact ⟨cur ▸ inv.cur_range, d ▸ inv.digit_range, dsel ▸ inv.one_line, aph ▸ dsel ▸ inv.blanked,
    aph ▸ cur ▸ p ▸ inv.latched⟩

end

/-! ## The buttons and POR -/

theorem microStart_inv {s : State} (inv : s.Inv) : (microStart s).Inv :=
  ⟨inv.counter.congr ⟨rfl, rfl, rfl, rfl, rfl, rfl⟩, inv.display.congr rfl⟩

theorem microStop_inv {s : State} (inv : s.Inv) : (microStop s).Inv :=
  ⟨inv.counter.congr ⟨rfl, rfl, rfl, rfl, rfl, rfl⟩, inv.display.congr rfl⟩

theorem hasFields_zero : HasFields 0 0 0 0 0 := ⟨rfl, rfl, rfl, rfl⟩

/-- After RST the fields are 0, and SUB and SEC are ahead of them or in step. -/
theorem microRst_counterInv {s : State} (inv : s.CounterInv) : (microRst Config.block s).CounterInv := by
  have ev' : (microRst Config.block s).ev = 0 := rfl
  have fields : HasFields (microRst Config.block s).ev 0 0 0 0 := hasFields_zero
  obtain ⟨f3', f2', f1', f0'⟩ := fields.f_eq
  refine ⟨f0', ?f1, ?f2, ?f3, inv.sub_range, ?sec, ?relation, ?stepped, ?notTerminal, inv.c1_phase, inv.c2_phase⟩
  case f1 | f2 | f3 => omega
  case sec => exact inv.sec_range.imp id fun ⟨ten, carrying, c1, _⟩ => ⟨ten, carrying, c1, by omega⟩
  case relation =>
    unfold State.related
    omega
  case stepped => exact fun stepping => ⟨(inv.sub_stepped stepping).1, by rw [ev']; decide⟩
  case notTerminal => exact fun _ _ _ => by rw [ev']; decide

theorem microRst_inv {s : State} (inv : s.Inv) : (microRst Config.block s).Inv :=
  ⟨microRst_counterInv inv.counter, inv.display.congr rfl⟩

theorem reset_counterInv : State.reset.CounterInv :=
  have digit : 0 ≤ 9 := Nat.zero_le 9
  (counterInv_iff_of_idle_or_k1 (.inl rfl)).mpr
    ⟨⟨rfl, digit, digit, digit, digit, digit, .inl ⟨rfl, rfl⟩⟩, rfl, rfl⟩

theorem reset_displayInv : State.reset.DisplayInv where
  cur_range := Nat.zero_le 4
  digit_range := Nat.zero_le 9
  one_line := .inl rfl
  blanked := fun _ => rfl
  latched := fun inProgress => absurd rfl inProgress

theorem powerOnReset_inv (s : State) : (powerOnReset s).Inv :=
  ⟨reset_counterInv.congr ⟨rfl, rfl, rfl, rfl, rfl, rfl⟩, reset_displayInv.congr rfl⟩

/-! ## ADV -/

/-- A0 leaves in CUR the number of the position it latches. -/
theorem clampCursor_toNat (cur : Cursor) : (clampCursor cur).toNat = Position.index (positionOf cur) := by
  revert cur; decide

theorem index_le_four (p : Position) : Position.index p ≤ 4 := by cases p <;> decide

theorem cursorAfter_le_four (p : Position) : (cursorAfter p).toNat ≤ 4 := by cases p <;> decide

/-- The sentinels of the digit3 decode show a digit, so a decimal field is shown as a digit. -/
theorem d3dec_le_nine {f : Nibble} (h : f.toNat ≤ 9) : (d3dec Config.block f).toNat ≤ 9 := by
  revert f; decide

/-- Between TICKs every field of EV is a decimal digit. -/
theorem State.CounterInv.digits {s : State} (inv : s.CounterInv) (h : s.tph = .idle) :
    s.f 0 ≤ 9 ∧ s.f 1 ≤ 9 ∧ s.f 2 ≤ 9 ∧ s.f 3 ≤ 9 := by
  obtain ⟨⟨f0, f1, f2, f3, -⟩, -⟩ := (counterInv_iff_of_idle_or_k1 (.inl h)).mp inv
  exact ⟨f0.trans_le (Nat.zero_le 9), f1, f2, f3⟩

/-- What A2 latches between TICKs is a decimal digit. -/
theorem extract_le_nine {s : State} (inv : s.Inv) (h : s.tph = .idle) : (extract Config.block s).toNat ≤ 9 := by
  obtain ⟨f0, f1, f2, f3⟩ := inv.counter.digits h
  unfold extract
  cases s.p with
  | digit0 => exact f0
  | digit1 => exact f1
  | digit2 => exact f2
  | digit3 => exact d3dec_le_nine f3
  | colon => exact inv.display.digit_range

theorem microA3_displayInv {s : State} (inv : s.DisplayInv) (h : s.aph = .a3) :
    (microA3 Config.block s).DisplayInv := by
  have blank : s.dsel = 0x1F := inv.blanked (.inr (.inl h))
  have latched : s.cur.toNat = Position.index s.p := inv.latched (by simp [h])
  rcases microA3_cases Config.block s with ⟨-, eq⟩ | ⟨-, pattern, -, eq⟩ | ⟨-, -, eq⟩ <;> rw [eq] <;>
    exact ⟨inv.cur_range, inv.digit_range, inv.one_line, fun _ => blank, fun _ => latched⟩

theorem microAdv_displayInv {s : State} (inv : s.Inv) (h : s.tph = .idle) :
    (microAdv Config.block s).DisplayInv := by
  obtain ⟨cur, digit, line, blanked, latched⟩ := inv.display
  unfold microAdv
  cases ha : s.aph with
  | idle =>
    exact ⟨(clampCursor_toNat s.cur).trans_le (index_le_four _), digit, line, by simp [microA0],
      fun _ => clampCursor_toNat s.cur⟩
  | a1 => exact ⟨cur, digit, .inl rfl, fun _ => rfl, fun _ => latched (by simp [ha])⟩
  | a2 =>
    exact ⟨cur, extract_le_nine inv h, line, fun _ => blanked (.inl ha), fun _ => latched (by simp [ha])⟩
  | a3 => exact microA3_displayInv inv.display ha
  | a4 => exact ⟨cur, digit, .inr ⟨s.p, rfl⟩, by simp [microA4], fun _ => latched (by simp [ha])⟩
  | a5 => exact ⟨cursorAfter_le_four s.p, digit, line, by simp [microA5], by simp [microA5]⟩

theorem microAdv_inv {s : State} (inv : s.Inv) (h : s.tph = .idle) : (microAdv Config.block s).Inv :=
  ⟨inv.counter.congr (agreePastGate_of_counterPart (microAdv_frame _ s).counter), microAdv_displayInv inv h⟩

/-- A state of a run between TICKs, with its draw number. -/
def State.betweenTicks (draws : Nat) (s : State) : Prop := s.Inv ∧ s.tph = .idle ∧ s.draws = draws

theorem microA3_draws {s : State} (digit : s.d.toNat ≤ 9) : (microA3 Config.block s).draws = s.draws := by
  rcases microA3_cases Config.block s with ⟨-, eq⟩ | ⟨-, pattern, -, eq⟩ | ⟨-, undefined, -⟩
  · rw [eq]
  · rw [eq]
  · exact absurd digit (not_le.mpr (segTabRead_eq_none.mp undefined))

/-- A3 is given a digit, so ADV makes no draw in a run (rule R102). -/
theorem microAdv_draws {s : State} (inv : s.DisplayInv) : (microAdv Config.block s).draws = s.draws := by
  unfold microAdv
  cases s.aph with
  | idle | a1 | a2 | a4 | a5 => rfl
  | a3 => exact microA3_draws inv.digit_range

theorem microAdv_betweenTicks {n : Nat} {s : State} (h : s.betweenTicks n) :
    (microAdv Config.block s).betweenTicks n := by
  obtain ⟨inv, idle, draws⟩ := h
  exact ⟨microAdv_inv inv idle, (microAdv_phases _ s).1.trans idle, (microAdv_draws inv.display).trans draws⟩

theorem wholeAdv_betweenTicks {n : Nat} {s : State} (idle : s.aph = .idle) (h : s.betweenTicks n) :
    (wholeAdv Config.block s).betweenTicks n :=
  wholeAdv_keeps Config.block (P := State.betweenTicks n) (fun _ => microAdv_betweenTicks) idle h

/-! ## Every row and every turn -/

/-- A row that completes in a state of a run leads to a state of a run, and makes no draw. -/
theorem exec_inv_draws {i : Instr} {s t : State} (inv : s.Inv) (h : exec i s = .next t) :
    t.Inv ∧ t.draws = s.draws := by
  rcases exec_next_cases h with ⟨-, rfl⟩ | ⟨-, rfl⟩ | ⟨-, -, rfl⟩ | ⟨-, -, rfl⟩ | ⟨-, -, rfl⟩ | ⟨-, enabled, rfl⟩ |
    ⟨-, -, rfl⟩ | ⟨enabled, rfl, -⟩ | ⟨-, -, -, -, enabled, rfl⟩
  · exact ⟨inv, rfl⟩
  · exact ⟨powerOnReset_inv s, rfl⟩
  · exact ⟨microStart_inv inv, rfl⟩
  · exact ⟨microRst_inv inv, rfl⟩
  · exact ⟨microStop_inv inv, rfl⟩
  · obtain ⟨idle, -⟩ := tickEnabled_iff.mp enabled
    exact ⟨⟨wholeTick_counterInv inv.counter idle, inv.display.congr (wholeTick_displayPart _ s)⟩,
      (wholeTick_frame _ s).draws⟩
  · exact ⟨⟨microTick_counterInv inv.counter, inv.display.congr (microTick_displayPart _ s)⟩, microTick_draws _ s⟩
  · obtain ⟨idle, -, advIdle, -⟩ := advEnabled_iff.mp enabled
    obtain ⟨inv', -, draws⟩ := wholeAdv_betweenTicks advIdle ⟨inv, idle, rfl⟩
    exact ⟨inv', draws⟩
  · obtain ⟨idle, -⟩ := advEnabled_iff.mp enabled
    exact ⟨microAdv_inv inv idle, microAdv_draws inv.display⟩

theorem step_inv_draws {s t : State} (inv : s.Inv) (h : step s = .next t) : t.Inv ∧ t.draws = s.draws := by
  obtain ⟨u, ⟨more, n, rfl⟩, cases⟩ := step_next_cases h
  have inv' : State.Inv { s with agenda := more, choices := n } :=
    ⟨inv.counter.congr ⟨rfl, rfl, rfl, rfl, rfl, rfl⟩, inv.display.congr rfl⟩
  rcases cases with rfl | ⟨v, rfl⟩ | ⟨i, completes⟩
  · exact ⟨inv', rfl⟩
  · exact ⟨⟨inv.counter.congr ⟨rfl, rfl, rfl, rfl, rfl, rfl⟩, inv.display.congr rfl⟩, rfl⟩
  · obtain ⟨inv'', draws⟩ := exec_inv_draws inv' completes
    exact ⟨inv'', draws⟩

theorem reachable_inv {s : State} (h : Reachable s) : s.Inv := by
  induction h with
  | reset turns => exact ⟨reset_counterInv.congr ⟨rfl, rfl, rfl, rfl, rfl, rfl⟩, reset_displayInv.congr rfl⟩
  | step _ stepped inv => exact (step_inv_draws inv stepped).1

/-! ## The obligations -/

/-- Settles O2: the base case of the invariant. -/
theorem resetStateMeetsTheRunInvariant : Obligations.ResetStateMeetsTheRunInvariant :=
  ⟨reset_counterInv, reset_displayInv⟩

/-- Settles O55: a step is no step, a request, or a row that completes; each micro-operation keeps the invariant. -/
theorem everyStepKeepsTheRunInvariant : Obligations.EveryStepKeepsTheRunInvariant :=
  fun _ _ inv stepped => (step_inv_draws inv stepped).1

/-- Settles O57: D is a decimal digit in a run, and the table defines the patterns of all ten. -/
theorem noDrawIsMadeInARun : Obligations.NoDrawIsMadeInARun :=
  fun _ _ inv stepped => (step_inv_draws inv stepped).2

/-- Settles O56: every state a run reaches meets the invariant, whose ranges are tight between TICKs. -/
theorem reachableFieldsStayDecimal : Obligations.ReachableFieldsStayDecimal := by
  intro s reached
  obtain ⟨inv, display⟩ := reachable_inv reached
  refine ⟨fun idle => ?_, inv.f0_zero, ?_, ?_, inv.f3_range, ?_, ?_, ?_, ?_, display.cur_range⟩
  · obtain ⟨⟨f0, f1, f2, f3, sub, sec, -⟩, c1, c2⟩ := (counterInv_iff_of_idle_or_k1 (.inl idle)).mp inv
    obtain ⟨ev, -⟩ := hasFields_iff.mp s.hasFields
    exact ⟨f0, f1, f2, f3, by omega, sub, sec, c1, c2⟩
  · exact inv.f1_range.elim (by omega) fun ten => ten.1.le
  · exact inv.f2_range.elim (by omega) fun ten => ten.1.le
  · exact inv.sub_range.elim (by omega) fun ten => ten.1.le
  · exact inv.sec_range.elim (by omega) fun ten => ten.1.le
  · exact fun ten => inv.f1_range.elim (by omega) fun range => range.2
  · exact fun ten => inv.f2_range.elim (by omega) fun range => range.2

/-- Settles O58: in a run EV is at TERMINAL at no phase after K3, and F0 is 0; in every state a carry clears a field
that is 9 in TERMINAL. -/
theorem lateTestsAndSafetyNetHaveNoEffectInARun : Obligations.LateTestsAndSafetyNetHaveNoEffectInARun := by
  refine ⟨fun s t inv h => ?k5, fun s t inv h => ?k7, fun s t inv h => ?k8, fun s t u sub h₄ h₅ => ?afterK4,
    fun s t u sec h₆ h₇ => ?afterK6⟩
  case k5 =>
    obtain ⟨enabled, rfl⟩ := whenEnabled_eq_next.mp h
    obtain ⟨hph, -⟩ := tickEnabled_iff.mp enabled
    exact terminalTest_of_ne_terminal _ _ (inv.counter.not_terminal (by simp [hph]) (by simp [hph]) (by simp [hph]))
  case k7 =>
    obtain ⟨enabled, rfl⟩ := whenEnabled_eq_next.mp h
    obtain ⟨hph, -⟩ := tickEnabled_iff.mp enabled
    exact terminalTest_of_ne_terminal _ _ (inv.counter.not_terminal (by simp [hph]) (by simp [hph]) (by simp [hph]))
  case k8 =>
    obtain ⟨-, rfl⟩ := whenEnabled_eq_next.mp h
    exact microK8_ev_of_counterInv inv.counter
  case afterK4 =>
    obtain ⟨-, rfl⟩ := whenEnabled_eq_next.mp h₄
    obtain ⟨-, rfl⟩ := whenEnabled_eq_next.mp h₅
    obtain ⟨-, ev', -⟩ := microK4_of_carry sub
    rw [microK5, terminalTest_of_ne_terminal _ _ (ev' ▸ maskS_ne_terminal _), State.toTick_tph]
  case afterK6 =>
    obtain ⟨-, rfl⟩ := whenEnabled_eq_next.mp h₆
    obtain ⟨-, rfl⟩ := whenEnabled_eq_next.mp h₇
    obtain ⟨-, ev', -⟩ := microK6_of_carry sec
    rw [microK7, terminalTest_of_ne_terminal _ _ (ev' ▸ maskM_ne_terminal _), State.toTick_tph]

end Sys2Proof.Machine

/-! PROOFS. The rows of TICK, micro-operation by micro-operation, and the rest of a TICK from each phase
(spec/42_elapsed_counter.md section 2). -/

namespace Sys2Proof.Machine

/-! ## The micro-operations -/

/-- Settles O7: the gate K0. -/
theorem gateEndsTheTickUnlessRunning : Obligations.GateEndsTheTickUnlessRunning := fun _ idle requested =>
  whenEnabled_eq_next.mpr ⟨tickEnabled_iff.mpr ⟨idle, fun _ => requested⟩, rfl⟩

/-- Settles O9: K5 and K7 are terminal tests made where C1 and C2 are set. -/
theorem terminalTestsAfterCarriesAutoStop : Obligations.TerminalTestsAfterCarriesAutoStop := by
  refine ⟨fun s h => ?_, fun s h => ?_⟩
  · refine whenEnabled_eq_next.mpr ⟨tickEnabled_iff.mpr ⟨h, nofun⟩, ?_⟩
    rw [microK5, terminalTest_block]
    rfl
  · refine whenEnabled_eq_next.mpr ⟨tickEnabled_iff.mpr ⟨h, nofun⟩, ?_⟩
    rw [microK7, terminalTest_block]
    rfl

/-- Settles O10: the hundredths step with STEP_H = 0x0010. -/
theorem hundredthsStepAddsInBinary : Obligations.HundredthsStepAddsInBinary := fun _ h =>
  whenEnabled_eq_next.mpr ⟨tickEnabled_iff.mpr ⟨h, nofun⟩, rfl⟩

theorem microK4_eq_of_carry {s : State} (h : s.sub = 10) :
    microK4 Config.block s =
      { s with ev := (s.ev + 0x0100) &&& 0xFF0F, sub := 0, sec := s.sec + 1, c1 := true, tph := .k5 } :=
  if_pos (by simpa [Config.block] using h)

theorem microK6_eq_of_carry {s : State} (h : s.sec = 10) :
    microK6 Config.block s = { s with ev := (s.ev + 0x1000) &&& 0xF0FF, sec := 0, c2 := true, tph := .k7 } :=
  if_pos (by simpa [Config.block] using h)

/-- Settles O11: the seconds carry K4, by whether SUB is 10. -/
theorem secondsCarryAtExactlyTenSubTicks : Obligations.SecondsCarryAtExactlyTenSubTicks := fun _ h =>
  ⟨fun carry => whenEnabled_eq_next.mpr ⟨tickEnabled_iff.mpr ⟨h, nofun⟩, (microK4_eq_of_carry carry).symm⟩,
    fun noCarry => whenEnabled_eq_next.mpr ⟨tickEnabled_iff.mpr ⟨h, nofun⟩, (microK4_of_no_carry noCarry).symm⟩⟩

/-- Settles O12: the minutes carry K6, by whether SEC is 10. -/
theorem minutesCarryAtExactlyTenCarries : Obligations.MinutesCarryAtExactlyTenCarries := fun _ h =>
  ⟨fun carry => whenEnabled_eq_next.mpr ⟨tickEnabled_iff.mpr ⟨h, nofun⟩, (microK6_eq_of_carry carry).symm⟩,
    fun noCarry => whenEnabled_eq_next.mpr ⟨tickEnabled_iff.mpr ⟨h, nofun⟩, (microK6_of_no_carry noCarry).symm⟩⟩

/-- What K8 leaves in EV. -/
def safetyNet (s : State) : EvWord := if s.c1 = false ∧ s.c2 = false then s.ev &&& 0xFFF0 else s.ev

theorem microK8_block (s : State) : microK8 Config.block s = { s.endTick with ev := safetyNet s } := by
  unfold microK8 safetyNet
  cases s.c1 <;> cases s.c2 <;> rfl

/-- Settles O13: the mask of K8, by C1 and C2. -/
theorem safetyNetOnTheNonCarryPath : Obligations.SafetyNetOnTheNonCarryPath := fun s h =>
  whenEnabled_eq_next.mpr ⟨tickEnabled_iff.mpr ⟨h, nofun⟩, (microK8_block s).symm⟩

/-! ## The micro-operation each phase selects -/

section
variable (c : Config) {s : State}

theorem microTick_of_k1 (h : s.tph = .k1) : microTick c s = microK1 c s := by simp [microTick, h]
theorem microTick_of_k2 (h : s.tph = .k2) : microTick c s = microK2 c s := by simp [microTick, h]
theorem microTick_of_k3 (h : s.tph = .k3) : microTick c s = microK3 c s := by simp [microTick, h]
theorem microTick_of_k4 (h : s.tph = .k4) : microTick c s = microK4 c s := by simp [microTick, h]
theorem microTick_of_k5 (h : s.tph = .k5) : microTick c s = microK5 c s := by simp [microTick, h]
theorem microTick_of_k6 (h : s.tph = .k6) : microTick c s = microK6 c s := by simp [microTick, h]
theorem microTick_of_k7 (h : s.tph = .k7) : microTick c s = microK7 c s := by simp [microTick, h]
theorem microTick_of_k8 (h : s.tph = .k8) : microTick c s = microK8 c s := by simp [microTick, h]

end

/-- A terminal test of the block goes on where it is not made or EV is not at TERMINAL. -/
theorem terminalTest_of_goOn {made : Bool} (next : TickPhase) {s : State} (goOn : ¬(made = true ∧ s.ev = 0x9990)) :
    terminalTest Config.block made next s = s.toTick next := by
  rw [terminalTest_block, if_neg goOn]

/-! ## The rest of a TICK from each phase -/

section
variable {s : State} (n : Nat)

theorem restOfTick_of_k8 (h : s.tph = .k8) :
    restOfTick Config.block (n + 1) s = { s.endTick with ev := safetyNet s } := by
  rw [restOfTick_succ_of_tph_ne_idle _ _ (by simp [h]), microTick_of_k8 _ h, microK8_block]
  exact restOfTick_idle _ _ rfl

theorem restOfTick_of_k7 (h : s.tph = .k7) (goOn : ¬(s.c2 = true ∧ s.ev = 0x9990)) :
    restOfTick Config.block (n + 2) s = { s.endTick with ev := safetyNet s } := by
  rw [restOfTick_succ_of_tph_ne_idle _ _ (by simp [h]), microTick_of_k7 _ h, microK7, terminalTest_of_goOn _ goOn]
  exact restOfTick_of_k8 n rfl

theorem restOfTick_of_k6_of_carry (h : s.tph = .k6) (carry : s.sec = 10) :
    restOfTick Config.block (n + 3) s = { s.endTick with ev := (s.ev + 0x1000) &&& 0xF0FF, sec := 0 } := by
  rw [restOfTick_succ_of_tph_ne_idle _ _ (by simp [h]), microTick_of_k6 _ h, microK6_eq_of_carry carry,
    restOfTick_of_k7 n rfl fun atTerminal => maskM_ne_terminal _ atTerminal.2]
  simp [safetyNet, State.endTick]

theorem restOfTick_of_k6_of_no_carry (h : s.tph = .k6) (noCarry : s.sec ≠ 10) (c2 : s.c2 = false) :
    restOfTick Config.block (n + 3) s = { s.endTick with ev := safetyNet s } := by
  rw [restOfTick_succ_of_tph_ne_idle _ _ (by simp [h]), microTick_of_k6 _ h, microK6_of_no_carry noCarry,
    restOfTick_of_k7 n rfl (by simp [c2])]
  rfl

theorem restOfTick_of_k5 (h : s.tph = .k5) (goOn : ¬(s.c1 = true ∧ s.ev = 0x9990)) :
    restOfTick Config.block (n + 1) s = restOfTick Config.block n (s.toTick .k6) := by
  rw [restOfTick_succ_of_tph_ne_idle _ _ (by simp [h]), microTick_of_k5 _ h, microK5, terminalTest_of_goOn _ goOn]

theorem restOfTick_of_k4_of_carry (h : s.tph = .k4) (carry : s.sub = 10) :
    restOfTick Config.block (n + 2) s = restOfTick Config.block n
      { s with ev := (s.ev + 0x0100) &&& 0xFF0F, sub := 0, sec := s.sec + 1, c1 := true, tph := .k6 } := by
  rw [restOfTick_succ_of_tph_ne_idle _ _ (by simp [h]), microTick_of_k4 _ h, microK4_eq_of_carry carry,
    restOfTick_of_k5 n rfl fun atTerminal => maskS_ne_terminal _ atTerminal.2]
  rfl

theorem restOfTick_of_k4_of_no_carry (h : s.tph = .k4) (noCarry : s.sub ≠ 10) (c1 : s.c1 = false) :
    restOfTick Config.block (n + 2) s = restOfTick Config.block n (s.toTick .k6) := by
  rw [restOfTick_succ_of_tph_ne_idle _ _ (by simp [h]), microTick_of_k4 _ h, microK4_of_no_carry noCarry,
    restOfTick_of_k5 n rfl (by simp [c1])]
  rfl

theorem restOfTick_of_k3 (h : s.tph = .k3) (before : s.ev ≠ 0x9990) :
    restOfTick Config.block (n + 1) s = restOfTick Config.block n (s.toTick .k4) := by
  rw [restOfTick_succ_of_tph_ne_idle _ _ (by simp [h]), microTick_of_k3 _ h, microK3,
    terminalTest_of_goOn _ fun atTerminal => before atTerminal.2]

theorem restOfTick_of_k2 (h : s.tph = .k2) :
    restOfTick Config.block (n + 1) s =
      restOfTick Config.block n { s with ev := s.ev + 0x0010, sub := s.sub + 1, tph := .k3 } := by
  rw [restOfTick_succ_of_tph_ne_idle _ _ (by simp [h]), microTick_of_k2 _ h]
  rfl

theorem restOfTick_of_k1 (h : s.tph = .k1) (before : s.ev ≠ 0x9990) :
    restOfTick Config.block (n + 1) s = restOfTick Config.block n (s.toTick .k2) := by
  rw [restOfTick_succ_of_tph_ne_idle _ _ (by simp [h]), microTick_of_k1 _ h, microK1,
    terminalTest_of_goOn _ fun atTerminal => before atTerminal.2]

end

/-! ## The whole TICK -/

theorem wholeTick_of_stopped (c : Config) {s : State} (stopped : s.run = false) :
    wholeTick c s = (s.clear .slow).endTick := by
  rw [wholeTick, show microK0 s = (s.clear .slow).endTick from if_neg (by simp [stopped])]
  exact restOfTick_idle c 8 rfl

/-- The state with which a TICK that counts comes to the seconds carry: PEND[4] is cleared, and K2 has counted. -/
def State.atSecondsCarry (s : State) : State :=
  { s.clear .slow with ev := s.ev + 0x0010, sub := s.sub + 1, tph := .k4 }

/-- A TICK that neither K1 nor K3 stops comes to the seconds carry. -/
theorem wholeTick_of_counts {s : State} (run : s.run = true) (before : s.ev ≠ 0x9990) (after : s.ev + 0x0010 ≠ 0x9990) :
    wholeTick Config.block s = restOfTick Config.block 5 s.atSecondsCarry :=
  calc
    wholeTick Config.block s = restOfTick Config.block 8 ((s.clear .slow).toTick .k1) := by
      rw [wholeTick, microK0_of_run run]
    _ = restOfTick Config.block 7 ((s.clear .slow).toTick .k2) := restOfTick_of_k1 7 rfl before
    _ = restOfTick Config.block 6 { s.clear .slow with ev := s.ev + 0x0010, sub := s.sub + 1, tph := .k3 } :=
      restOfTick_of_k2 6 rfl
    _ = restOfTick Config.block 5 s.atSecondsCarry := restOfTick_of_k3 5 rfl after

theorem tickOfRule140_of_stopped (ev : EvWord) (sub sec : Nibble) :
    tickOfRule140 ev false sub sec = (ev, false, sub, sec) :=
  if_pos rfl

theorem tickOfRule140_of_terminal (sub sec : Nibble) :
    tickOfRule140 0x9990 true sub sec = (0x9990, false, sub, sec) :=
  (if_neg (by decide)).trans (if_pos rfl)

theorem tickOfRule140_of_reaching {ev : EvWord} (sub sec : Nibble) (before : ev ≠ 0x9990)
    (after : ev + 0x0010 = 0x9990) : tickOfRule140 ev true sub sec = (0x9990, false, sub + 1, sec) := by
  rw [← after]
  exact (if_neg (by decide)).trans ((if_neg before).trans (if_pos after))

/-- Where a TICK counts, rule R140 takes the carries after K2 one after the other. -/
theorem tickOfRule140_of_counts {ev : EvWord} {sub sec : Nibble} (before : ev ≠ 0x9990) (after : ev + 0x0010 ≠ 0x9990) :
    tickOfRule140 ev true sub sec =
      if sub + 1 = 10 then
        if sec + 1 = 10 then ((((ev + 0x0010) + 0x0100 &&& 0xFF0F) + 0x1000) &&& 0xF0FF, true, 0, 0)
        else ((ev + 0x0010) + 0x0100 &&& 0xFF0F, true, 0, sec + 1)
      else if sec = 10 then ((ev + 0x0010) + 0x1000 &&& 0xF0FF, true, sub + 1, 0)
        else (ev + 0x0010 &&& 0xFFF0, true, sub + 1, sec) := by
  have s := maskS_ne_terminal
  have m := maskM_ne_terminal
  split <;> split <;> simp_all [tickOfRule140]

/-- The end of a TICK with the given EV, RUN, SUB and SEC, where nothing else is written but PEND[4]. -/
def State.ticked (s : State) (count : EvWord × Bool × Nibble × Nibble) : State :=
  { s.endTick with
    pend := s.pend &&& 0x0F, ev := count.1, run := count.2.1, sub := count.2.2.1, sec := count.2.2.2 }

theorem not_pendVector_slow : ~~~pendVector .slow = 0x0F := rfl

/-- A TICK that counts is the function of rule R140, by which of the two carries it takes. -/
theorem restOfTick_atSecondsCarry {s : State} (run : s.run = true) (before : s.ev ≠ 0x9990)
    (after : s.ev + 0x0010 ≠ 0x9990) (c1 : s.c1 = false) (c2 : s.c2 = false) :
    restOfTick Config.block 5 s.atSecondsCarry = s.ticked (tickOfRule140 s.ev true s.sub s.sec) := by
  rw [tickOfRule140_of_counts before after]
  by_cases first : s.sub + 1 = 10
  · rw [if_pos first]
    refine Eq.trans (restOfTick_of_k4_of_carry 3 rfl first) ?_
    by_cases second : s.sec + 1 = 10
    · rw [if_pos second]
      refine Eq.trans (restOfTick_of_k6_of_carry 0 rfl second) ?_
      simp [State.ticked, State.atSecondsCarry, run, not_pendVector_slow]
    · rw [if_neg second]
      refine Eq.trans (restOfTick_of_k6_of_no_carry 0 rfl second c2) ?_
      simp [State.ticked, State.atSecondsCarry, run, not_pendVector_slow, safetyNet]
  · rw [if_neg first]
    refine Eq.trans (restOfTick_of_k4_of_no_carry 3 rfl first c1) ?_
    by_cases second : s.sec = 10
    · rw [if_pos second]
      refine Eq.trans (restOfTick_of_k6_of_carry 0 rfl second) ?_
      simp [State.ticked, State.atSecondsCarry, run, not_pendVector_slow]
    · rw [if_neg second]
      refine Eq.trans (restOfTick_of_k6_of_no_carry 0 rfl second c2) ?_
      simp [State.ticked, State.atSecondsCarry, run, not_pendVector_slow, safetyNet, c1, c2]

/-- The uninterrupted TICK is the function of rule R140: stopped, at TERMINAL, reaching it, or counting. -/
theorem wholeTick_eq_ticked {s : State} (c1 : s.c1 = false) (c2 : s.c2 = false) :
    wholeTick Config.block s = s.ticked (tickOfRule140 s.ev s.run s.sub s.sec) := by
  cases run : s.run
  case false =>
    rw [wholeTick_of_stopped _ run, tickOfRule140_of_stopped]
    simp [State.ticked, State.endTick, State.clear, not_pendVector_slow, run]
  case true =>
    by_cases before : s.ev = 0x9990
    · rw [wholeTick_of_terminal run before, before, tickOfRule140_of_terminal]
      simp [State.ticked, State.autoStop, State.endTick, State.clear, not_pendVector_slow, before]
    by_cases after : s.ev + 0x0010 = 0x9990
    · rw [wholeTick_of_step_to_terminal run before after, tickOfRule140_of_reaching _ _ before after]
      rfl
    · rw [wholeTick_of_counts run before after, restOfTick_atSecondsCarry run before after c1 c2]

/-- Settles O14: between TICKs the end of a TICK writes the counts and PEND[4] alone. -/
theorem wholeTickIsTheFunctionOfTheSpec : Obligations.WholeTickIsTheFunctionOfTheSpec := by
  intro s idle c1 c2 requested
  rw [exec_tick_of_requested idle requested, wholeTick_eq_ticked c1 c2]
  simp [State.ticked, State.endTick, idle, c1, c2]

end Sys2Proof.Machine

/-! PROOFS. What TICK does over its whole course: its frame, its length, the decimal count and saturation
(spec/42_elapsed_counter.md sections 3 and 4, spec/70_reset_and_hazards.md section 4). -/

namespace Sys2Proof.Machine

/-! ## The rows of TICK -/

theorem mem_tickRows {i : Instr} : i ∈ tickRows ↔ i = .tick ∨ ∃ ph, i = tickRow ph := by
  constructor
  · intro h
    simp only [tickRows, List.mem_cons, List.not_mem_nil, or_false] at h
    rcases h with rfl | rfl | rfl | rfl | rfl | rfl | rfl | rfl | rfl | rfl
    exacts [.inl rfl, .inr ⟨.idle, rfl⟩, .inr ⟨.k1, rfl⟩, .inr ⟨.k2, rfl⟩, .inr ⟨.k3, rfl⟩, .inr ⟨.k4, rfl⟩,
      .inr ⟨.k5, rfl⟩, .inr ⟨.k6, rfl⟩, .inr ⟨.k7, rfl⟩, .inr ⟨.k8, rfl⟩]
  · rintro (rfl | ⟨ph, rfl⟩)
    · decide
    · cases ph <;> decide

theorem tickRow_eq_tickK0_iff {ph : TickPhase} : tickRow ph = .tickK0 ↔ ph = .idle := by
  cases ph <;> simp [tickRow]

/-- A row of TICK that completes has run the whole TICK or the micro-operation of the phase. -/
theorem eq_wholeTick_or_microTick_of_exec {i : Instr} {s t : State} (hi : i ∈ tickRows) (h : exec i s = .next t) :
    (i = .tick ∧ s.tph = .idle ∧ t = wholeTick Config.block s) ∨
    (i = tickRow s.tph ∧ t = microTick Config.block s) := by
  have noAdv : ∀ j ∈ wholeAdvRows, j ∉ tickRows := by decide
  rcases exec_next_cases h with ⟨rfl, -⟩ | ⟨rfl, -⟩ | ⟨rfl, -⟩ | ⟨rfl, -⟩ | ⟨rfl, -⟩ | ⟨tick, enabled, whole⟩ |
    ⟨row, -, micro⟩ | ⟨-, -, adv⟩ | ⟨noTick, -, -, noRow, -⟩
  iterate 5 exact absurd hi (by decide)
  · exact .inl ⟨tick, (tickEnabled_iff.mp enabled).1, whole⟩
  · exact .inr ⟨row, micro⟩
  · exact absurd hi (noAdv i adv)
  · rcases mem_tickRows.mp hi with tick | ⟨ph, row⟩
    · exact absurd tick noTick
    · exact absurd row (noRow ph)

/-! ## A TICK comes to its end, and leaves C1 and C2 clear -/

theorem microTick_remaining_lt (c : Config) {s : State} (inProgress : s.tph ≠ .idle) :
    (microTick c s).tph.remaining < s.tph.remaining := by
  rcases (microTick_phases c s).2.2 with ended | ⟨idle, -⟩ | ⟨-, less⟩
  · rw [ended]
    revert inProgress
    cases s.tph <;> simp [TickPhase.remaining]
  · exact absurd idle inProgress
  · exact less

theorem restOfTick_tph_of_remaining_le (c : Config) (n : Nat) {s : State} (h : s.tph.remaining ≤ n) :
    (restOfTick c n s).tph = .idle := by
  induction n generalizing s with
  | zero =>
    revert h
    cases tph : s.tph <;> simp [TickPhase.remaining, restOfTick, tph]
  | succ n ih =>
    by_cases idle : s.tph = .idle
    · rw [restOfTick_idle c _ idle, idle]
    · rw [restOfTick_succ_of_tph_ne_idle c n idle]
      exact ih (by have := microTick_remaining_lt c idle; omega)

theorem remaining_le_eight (ph : TickPhase) : ph.remaining ≤ 8 := by
  cases ph <;> simp [TickPhase.remaining]

theorem wholeTick_tph (c : Config) (s : State) : (wholeTick c s).tph = .idle :=
  restOfTick_tph_of_remaining_le c 8 (remaining_le_eight _)

/-- Where no TICK is in progress, C1 and C2 are clear. -/
def State.carriesEnded (s : State) : Prop := s.tph = .idle → s.c1 = false ∧ s.c2 = false

theorem terminalTest_carriesEnded (c : Config) (made : Bool) {next : TickPhase} (inProgress : next ≠ .idle)
    (s : State) : (terminalTest c made next s).carriesEnded := by
  unfold terminalTest
  split
  · exact fun _ => ⟨rfl, rfl⟩
  · exact fun idle => absurd idle inProgress

theorem microTick_carriesEnded (c : Config) (s : State) : (microTick c s).carriesEnded := by
  unfold microTick
  cases s.tph with
  | idle =>
    show (microK0 s).carriesEnded
    unfold microK0
    split
    · exact nofun
    · exact fun _ => ⟨rfl, rfl⟩
  | k1 | k3 | k5 | k7 => exact terminalTest_carriesEnded c _ (by simp) s
  | k2 => exact nofun
  | k4 =>
    show (microK4 c s).carriesEnded
    unfold microK4
    split <;> exact nofun
  | k6 =>
    show (microK6 c s).carriesEnded
    unfold microK6
    split <;> exact nofun
  | k8 =>
    show (microK8 c s).carriesEnded
    unfold microK8
    split <;> exact fun _ => ⟨rfl, rfl⟩

theorem wholeTick_carriesEnded (c : Config) {s : State} (idle : s.tph = .idle) : (wholeTick c s).carriesEnded :=
  restOfTick_keeps c (P := State.carriesEnded) (fun s _ _ => microTick_carriesEnded c s) 8
    (microTick_of_idle c idle ▸ microTick_carriesEnded c s)

theorem microTick_pend (c : Config) (s : State) :
    (microTick c s).pend = if s.tph = .idle then s.pend &&& 0x0F else s.pend := by
  split
  · next idle =>
    rw [microTick_of_idle c idle]
    exact (microK0_frame s).pend
  · next inProgress => exact (microTick_frame c inProgress).pend

/-- The model's own fields, which no TICK writes. -/
theorem microTick_ownFields (c : Config) (s : State) :
    (microTick c s).draws = s.draws ∧ (microTick c s).choices = s.choices ∧ (microTick c s).agenda = s.agenda := by
  by_cases idle : s.tph = .idle
  · rw [microTick_of_idle c idle]
    exact ⟨(microK0_frame s).draws, (microK0_frame s).choices, (microK0_frame s).agenda⟩
  · exact ⟨(microTick_frame c idle).draws, (microTick_frame c idle).choices, (microTick_frame c idle).agenda⟩

/-- Settles O15: a row of TICK has run the whole TICK or one micro-operation, and the frame is that of each. -/
theorem tickRowsLeaveTheDisplayAlone : Obligations.TickRowsLeaveTheDisplayAlone := by
  intro i s t hi h
  rcases eq_wholeTick_or_microTick_of_exec hi h with ⟨rfl, idle, rfl⟩ | ⟨rfl, rfl⟩
  · obtain ⟨display, pend, draws, choices, agenda⟩ := wholeTick_frame Config.block s
    exact ⟨display, pend, draws, choices, agenda, wholeTick_run_of_stopped _, wholeTick_carriesEnded _ idle,
      fun _ => wholeTick_tph _ s⟩
  · obtain ⟨draws, choices, agenda⟩ := microTick_ownFields Config.block s
    have notWhole : tickRow s.tph ≠ .tick := by cases s.tph <;> simp [tickRow]
    refine ⟨microTick_displayPart _ s, ?_, draws, choices, agenda, microTick_run_of_stopped _,
      microTick_carriesEnded _ s, fun whole => absurd whole notWhole⟩
    rw [microTick_pend]
    simp only [notWhole, tickRow_eq_tickK0_iff, false_or]

/-! ## Saturation -/

theorem microTick_stalled {s : State} (h : s.stalled) : (microTick Config.block s).stalled := by
  obtain ⟨hev, hph | hph | hph⟩ := h
  · rw [microTick_of_idle _ hph]
    unfold microK0
    split
    · exact ⟨hev, .inr (.inl rfl)⟩
    · exact ⟨hev, .inl rfl⟩
  · rw [microTick_of_atTerminalTest (.inl hph) hev]
    exact ⟨hev, .inl rfl⟩
  · rw [microTick_of_atTerminalTest (.inr (.inl hph)) hev]
    exact ⟨hev, .inl rfl⟩

theorem wholeTick_stalled {s : State} (idle : s.tph = .idle) (h : s.stalled) : (wholeTick Config.block s).stalled :=
  restOfTick_keeps Config.block (P := State.stalled) (fun _ _ => microTick_stalled) 8
    (microTick_of_idle Config.block idle ▸ microTick_stalled h)

theorem stalled_of_counterPart {s t : State} (h : s.stalled) (same : t.counterPart = s.counterPart) :
    t.stalled := by
  have agree := agreePastGate_of_counterPart same
  exact ⟨agree.ev ▸ h.1, agree.tph ▸ h.2⟩

/-- Settles O17: at TERMINAL a TICK is ended by the test it is at, and nothing else but RST and POR writes EV. -/
theorem terminalValueHoldsUntilReset : Obligations.TerminalValueHoldsUntilReset := by
  intro i s t stalled notRst notPor h
  rcases exec_next_cases h with ⟨-, rfl⟩ | ⟨por, -⟩ | ⟨-, -, rfl⟩ | ⟨rst, -⟩ | ⟨-, -, rfl⟩ | ⟨-, enabled, rfl⟩ |
    ⟨-, -, rfl⟩ | ⟨-, rfl, -⟩ | ⟨-, -, -, -, -, rfl⟩
  · exact stalled
  · exact absurd por notPor
  · exact stalled
  · exact absurd rst notRst
  · exact stalled
  · exact wholeTick_stalled (tickEnabled_iff.mp enabled).1 stalled
  · exact microTick_stalled stalled
  · exact stalled_of_counterPart stalled (wholeAdv_frame _ s).counter
  · exact stalled_of_counterPart stalled (microAdv_frame _ s).counter

end Sys2Proof.Machine

/-! PROOFS. How long a TICK takes, the decimal count of n TICKs, and a RST that lands inside a TICK
(spec/42_elapsed_counter.md section 4, spec/70_reset_and_hazards.md sections 3 and 4). -/

namespace Sys2Proof.Machine

/-! ## The first micro-operations of a TICK -/

theorem firstOfTick_succ (c : Config) (n : Nat) (s : State) :
    firstOfTick c (n + 1) s = microTick c (firstOfTick c n s) := rfl

section
variable {s : State}

theorem firstOfTick_one (c : Config) (idle : s.tph = .idle) : firstOfTick c 1 s = microK0 s :=
  microTick_of_idle c idle

theorem firstOfTick_one_of_run (c : Config) (idle : s.tph = .idle) (run : s.run = true) :
    firstOfTick c 1 s = (s.clear .slow).toTick .k1 := by
  rw [firstOfTick_one c idle, microK0_of_run run]

theorem firstOfTick_two_of_terminal (idle : s.tph = .idle) (run : s.run = true) (atTerminal : s.ev = 0x9990) :
    firstOfTick Config.block 2 s = (s.clear .slow).autoStop := by
  rw [firstOfTick_succ, firstOfTick_one_of_run _ idle run]
  exact microTick_of_atTerminalTest (.inl rfl) atTerminal

theorem firstOfTick_two (idle : s.tph = .idle) (run : s.run = true) (before : s.ev ≠ 0x9990) :
    firstOfTick Config.block 2 s = (s.clear .slow).toTick .k2 := by
  rw [firstOfTick_succ, firstOfTick_one_of_run _ idle run]
  exact terminalTest_of_ne_terminal true .k2 before

theorem firstOfTick_three (idle : s.tph = .idle) (run : s.run = true) (before : s.ev ≠ 0x9990) :
    firstOfTick Config.block 3 s = s.atSecondsCarry.toTick .k3 := by
  rw [firstOfTick_succ, firstOfTick_two idle run before]
  rfl

theorem firstOfTick_four (idle : s.tph = .idle) (run : s.run = true) (before : s.ev ≠ 0x9990)
    (after : s.ev + 0x0010 ≠ 0x9990) : firstOfTick Config.block 4 s = s.atSecondsCarry := by
  rw [firstOfTick_succ, firstOfTick_three idle run before]
  exact terminalTest_of_ne_terminal true .k4 after

theorem firstOfTick_four_tph_of_reaching (idle : s.tph = .idle) (run : s.run = true) (before : s.ev ≠ 0x9990)
    (reached : s.ev + 0x0010 = 0x9990) : (firstOfTick Config.block 4 s).tph = .idle := by
  rw [firstOfTick_succ, firstOfTick_three idle run before, microTick_of_atTerminalTest (.inr (.inl rfl)) reached]
  rfl

end

/-! ## The five micro-operations from the seconds carry on -/

/-- The seconds carry goes to K5, with C1 and a cleared F1 where it is taken. -/
theorem microTick_of_k4_phases {s : State} (h : s.tph = .k4) (c1 : s.c1 = false) :
    (microTick Config.block s).tph = .k5 ∧ (microTick Config.block s).c2 = s.c2 ∧
      ¬((microTick Config.block s).c1 = true ∧ (microTick Config.block s).ev = 0x9990) := by
  rw [microTick_of_k4 _ h]
  by_cases carry : s.sub = 10
  · rw [microK4_eq_of_carry carry]
    exact ⟨rfl, rfl, fun atTerminal => maskS_ne_terminal _ atTerminal.2⟩
  · rw [microK4_of_no_carry carry]
    exact ⟨rfl, rfl, by simp [c1]⟩

theorem microTick_of_k6_phases {s : State} (h : s.tph = .k6) (c2 : s.c2 = false) :
    (microTick Config.block s).tph = .k7 ∧
      ¬((microTick Config.block s).c2 = true ∧ (microTick Config.block s).ev = 0x9990) := by
  rw [microTick_of_k6 _ h]
  by_cases carry : s.sec = 10
  · rw [microK6_eq_of_carry carry]
    exact ⟨rfl, fun atTerminal => maskM_ne_terminal _ atTerminal.2⟩
  · rw [microK6_of_no_carry carry]
    exact ⟨rfl, by simp [c2]⟩

/-- From the seconds carry on a TICK goes through K5, K6, K7 and K8 to its end, whichever carries it takes. -/
theorem firstOfTick_tph_of_k4 {s : State} (h : (firstOfTick Config.block 4 s).tph = .k4)
    (c1 : (firstOfTick Config.block 4 s).c1 = false) (c2 : (firstOfTick Config.block 4 s).c2 = false) :
    (firstOfTick Config.block 5 s).tph = .k5 ∧ (firstOfTick Config.block 6 s).tph = .k6 ∧
      (firstOfTick Config.block 7 s).tph = .k7 ∧ (firstOfTick Config.block 8 s).tph = .k8 ∧
      (firstOfTick Config.block 9 s).tph = .idle := by
  obtain ⟨h₅, c2₅, goOn₅⟩ := microTick_of_k4_phases h c1
  have e₆ : firstOfTick Config.block 6 s = (firstOfTick Config.block 5 s).toTick .k6 :=
    (microTick_of_k5 _ h₅).trans (terminalTest_of_goOn .k6 goOn₅)
  have h₆ : (firstOfTick Config.block 6 s).tph = .k6 := by rw [e₆]; rfl
  have c2₆ : (firstOfTick Config.block 6 s).c2 = false := by
    rw [e₆]
    exact c2₅.trans c2
  obtain ⟨h₇, goOn₇⟩ := microTick_of_k6_phases h₆ c2₆
  have h₈ : (firstOfTick Config.block 8 s).tph = .k8 := by
    rw [show firstOfTick Config.block 8 s = _ from microTick_of_k7 _ h₇]
    exact congrArg State.tph (terminalTest_of_goOn .k8 goOn₇)
  have h₉ : (firstOfTick Config.block 9 s).tph = .idle := by
    rw [firstOfTick_succ, microTick_of_k8 _ h₈, microK8_block]
    rfl
  exact ⟨h₅, h₆, h₇, h₈, h₉⟩

/-- Settles O18: the phases of the first micro-operations, by RUN and by whether EV is at TERMINAL before or after the
hundredths step. -/
theorem tickTakesOneTwoFourOrNineMicroOperations : Obligations.TickTakesOneTwoFourOrNineMicroOperations := by
  intro s idle c1 c2
  refine ⟨_, rfl, ?_⟩
  cases run : s.run
  case false =>
    rw [if_pos rfl]
    refine ⟨?_, by omega⟩
    rw [firstOfTick_one _ idle]
    simp [microK0, run]
  case true =>
    have h₁ : (firstOfTick Config.block 1 s).tph = .k1 := by rw [firstOfTick_one_of_run _ idle run]; rfl
    rw [if_neg (by simp)]
    by_cases before : s.ev = 0x9990
    · rw [if_pos before, firstOfTick_two_of_terminal idle run before]
      refine ⟨rfl, fun n pos less => ?_⟩
      interval_cases n
      simp [h₁]
    have h₂ : (firstOfTick Config.block 2 s).tph = .k2 := by rw [firstOfTick_two idle run before]; rfl
    have h₃ : (firstOfTick Config.block 3 s).tph = .k3 := by rw [firstOfTick_three idle run before]; rfl
    rw [if_neg before]
    by_cases after : s.ev + 0x0010 = 0x9990
    · rw [if_pos after]
      refine ⟨firstOfTick_four_tph_of_reaching idle run before after, fun n pos less => ?_⟩
      interval_cases n <;> simp [h₁, h₂, h₃]
    · rw [if_neg after]
      have e₄ := firstOfTick_four idle run before after
      have h₄ : (firstOfTick Config.block 4 s).tph = .k4 := by rw [e₄]; rfl
      obtain ⟨h₅, h₆, h₇, h₈, h₉⟩ := firstOfTick_tph_of_k4 h₄ (e₄ ▸ c1) (e₄ ▸ c2)
      refine ⟨h₉, fun n pos less => ?_⟩
      interval_cases n <;> simp [h₁, h₂, h₃, h₄, h₅, h₆, h₇, h₈]

/-! ## n TICKs -/

/-- A line that requests an operation and has it served is the row the request vector is decoded to. -/
theorem runTurns_request {f : Format} {b : Byte} {i : Instr} (h : decode f b = .instr i) (v : Requests) (s : State) :
    runTurns [.req v, .row f b] s = exec i (s.raise v) := by
  simp only [runTurns, runTurn, runRow, h]
  cases exec i (s.raise v) <;> rfl

theorem runLines_append {ls : List Line} {s t : State} (h : runLines ls s = .next t) (more : List Line) :
    runLines (ls ++ more) s = runLines more t := by
  induction ls generalizing s with
  | nil =>
    obtain rfl : s = t := by simpa [runLines] using h
    rfl
  | cons l ls ih =>
    rw [runLines] at h
    rw [List.cons_append, runLines]
    cases line : runLine l s with
    | next u =>
      rw [line] at h
      exact ih h
    | fault r => cases r
    | refused r =>
      rw [line] at h
      cases h

theorem runLines_singleton (l : Line) (s : State) : runLines [l] s = runLine l s := by
  rw [runLines]
  cases runLine l s <;> rfl

/-- A state with the given EV, RUN, SUB and SEC. -/
def State.withCount (s : State) (count : EvWord × Bool × Nibble × Nibble) : State :=
  { s with ev := count.1, run := count.2.1, sub := count.2.2.1, sec := count.2.2.2 }

theorem requests_or_slow_and {v : Requests} (h : v.getLsbD 4 = false) : (v ||| 0x10#5) &&& 0x0F#5 = v := by
  revert v; decide

/-- The line TICK at rest is the function of rule R140. -/
theorem runLine_tick {s : State} (h : s.atRest) :
    runLine .tick s = .next (s.withCount (tickOfRule140 s.ev s.run s.sub s.sec)) := by
  obtain ⟨idle, advIdle, c1, c2, slow, fast⟩ := h
  have legal : Line.legal s .tick = true := by simp [Line.legal, State.phasesIdle, idle, advIdle]
  have requested : (s.raise 0x10).pending .slow = true := by simp [State.pending, pendBit]
  have pend : (s.pend ||| 0x10#5) &&& 0x0F#5 = s.pend := requests_or_slow_and slow
  calc runLine .tick s = runTurns [.req 0x10, .row .pend 0x10] s := if_pos legal
    _ = exec .tick (s.raise 0x10) := runTurns_request (by decide) _ _
    _ = .next ((s.raise 0x10).ticked (tickOfRule140 s.ev s.run s.sub s.sec)) := by
      rw [exec_tick_of_requested (s := s.raise 0x10) idle requested, wholeTick_eq_ticked (s := s.raise 0x10) c1 c2]
      rfl
    _ = .next (s.withCount (tickOfRule140 s.ev s.run s.sub s.sec)) := by
      simp [State.ticked, State.endTick, State.raise, State.withCount, idle, c1, c2, pend]

/-! ## The decimal count -/

theorem packed_hasFields {n : Nat} (h : n ≤ 999) : HasFields (packed n) (n / 100) (n / 10 % 10) (n % 10) 0 := by
  rw [hasFields_iff, packed, BitVec.toNat_ofNat]
  omega

theorem eq_packed_of_hasFields {ev : EvWord} {n : Nat} (bound : n ≤ 999)
    (h : HasFields ev (n / 100) (n / 10 % 10) (n % 10) 0) : ev = packed n :=
  h.eq (packed_hasFields bound)

/-- A counter of the block holds the decimal digit d. -/
theorem digit_add_one {d : Nat} (h : d ≤ 9) : BitVec.ofNat 4 d + 1 = BitVec.ofNat 4 (d + 1) ∧
    (BitVec.ofNat 4 d + 1 = 10 ↔ d = 9) ∧ BitVec.ofNat 4 d ≠ 10 := by
  interval_cases d <;> decide

/-- EV, RUN, SUB and SEC after n TICKs from zero (rule R143). -/
def countAfter (n : Nat) : EvWord × Bool × Nibble × Nibble :=
  (packed (min n 999), decide (n < 999), BitVec.ofNat 4 (min n 999 % 10), BitVec.ofNat 4 (min n 999 / 10 % 10))

theorem countAfter_of_lt {n : Nat} (h : n < 999) :
    countAfter n = (packed n, true, BitVec.ofNat 4 (n % 10), BitVec.ofNat 4 (n / 10 % 10)) := by
  simp [countAfter, h, h.le]

theorem countAfter_of_le {n : Nat} (h : 999 ≤ n) : countAfter n = (0x9990, false, 9, 9) := by
  simp [countAfter, h]
  decide

/-- One TICK counts one in decimal. -/
theorem tickOfRule140_packed {n : Nat} (h : n < 998) :
    tickOfRule140 (packed n) true (BitVec.ofNat 4 (n % 10)) (BitVec.ofNat 4 (n / 10 % 10)) =
      (packed (n + 1), true, BitVec.ofNat 4 ((n + 1) % 10), BitVec.ofNat 4 ((n + 1) / 10 % 10)) := by
  have fields := packed_hasFields (n := n) (by omega)
  have stepped := fields.addStepH (by omega)
  have before : packed n ≠ 0x9990 := fun hev => by
    have := fields.eq_terminal_iff.mp hev
    omega
  have after : packed n + 0x0010 ≠ 0x9990 := fun hev => by
    have := stepped.eq_terminal_iff.mp hev
    omega
  obtain ⟨sub', first, -⟩ := digit_add_one (d := n % 10) (by omega)
  obtain ⟨sec', second, secNotTen⟩ := digit_add_one (d := n / 10 % 10) (by omega)
  rw [tickOfRule140_of_counts before after, if_congr first rfl rfl, if_congr second rfl rfl, if_neg secNotTen, sub',
    sec']
  split
  case isTrue nine =>
    have low : (n + 1) % 10 = 0 := by omega
    split
    case isTrue nineNine =>
      have mid : (n + 1) / 10 % 10 = 0 := by omega
      have high : (n + 1) / 100 = n / 100 + 1 := by omega
      have ev' := eq_packed_of_hasFields (n := n + 1) (by omega)
        (by rw [high, mid, low]; exact (stepped.carryS (by omega)).carryM (by omega))
      rw [ev', mid, low]
      rfl
    case isFalse notNineNine =>
      have mid : (n + 1) / 10 % 10 = n / 10 % 10 + 1 := by omega
      have high : (n + 1) / 100 = n / 100 := by omega
      have ev' := eq_packed_of_hasFields (n := n + 1) (by omega)
        (by rw [high, mid, low]; exact stepped.carryS (by omega))
      rw [ev', mid, low]
      rfl
  case isFalse notNine =>
    have low : (n + 1) % 10 = n % 10 + 1 := by omega
    have mid : (n + 1) / 10 % 10 = n / 10 % 10 := by omega
    have high : (n + 1) / 100 = n / 100 := by omega
    have ev' := eq_packed_of_hasFields (n := n + 1) (by omega) (by rw [high, mid, low]; exact stepped.maskSafe)
    rw [ev', mid, low]

/-- One TICK leads from the count after n TICKs to the next one, and from the 999th on it changes nothing. -/
theorem tickOfRule140_countAfter (n : Nat) :
    tickOfRule140 (countAfter n).1 (countAfter n).2.1 (countAfter n).2.2.1 (countAfter n).2.2.2 =
      countAfter (n + 1) := by
  rcases Nat.lt_trichotomy n 998 with counts | rfl | stopped
  · rw [countAfter_of_lt (by omega), countAfter_of_lt (by omega)]
    exact tickOfRule140_packed counts
  · decide
  · rw [countAfter_of_le (by omega), countAfter_of_le (by omega)]
    exact tickOfRule140_of_stopped _ _ _

theorem tickTimes_succ (n : Nat) : tickTimes (n + 1) = tickTimes n ++ [.tick] := List.replicate_succ'

/-- n TICKs from zero, one line after the other. -/
theorem runLines_tickTimes (n : Nat) {s : State} (h : s.atRest) (start : s = s.withCount (countAfter 0)) :
    runLines (tickTimes n) s = .next (s.withCount (countAfter n)) := by
  induction n with
  | zero =>
    rw [← start]
    rfl
  | succ n ih =>
    rw [tickTimes_succ, runLines_append ih, runLines_singleton,
      runLine_tick (s := s.withCount (countAfter n)) h]
    exact congrArg (fun count => Host.Outcome.next (s.withCount count)) (tickOfRule140_countAfter n)

/-- Settles O16: by induction over n, with one TICK of rule R140 as the step. -/
theorem ticksCountInDecimalUpToTheTerminalValue : Obligations.TicksCountInDecimalUpToTheTerminalValue := by
  intro n s rest ev run sub sec
  have start : s = s.withCount (countAfter 0) := by
    have zero : countAfter 0 = (0, true, 0, 0) := by decide
    rw [zero]
    cases s
    simp_all [State.withCount]
  exact runLines_tickTimes n rest start

end Sys2Proof.Machine

/-! PROOFS. A RST that lands inside a TICK (spec/70_reset_and_hazards.md rule R204). -/

namespace Sys2Proof.Machine

/-! ## RST before the first micro-operation of a TICK, and after a later one -/

theorem tickWithRst_zero (s : State) :
    tickWithRst Config.block 0 s = ((microRst Config.block s).clear .slow).endTick :=
  wholeTick_of_stopped Config.block (microRst_run Config.block s)

theorem tickWithRst_of_pos {n : Nat} (pos : 0 < n) (s : State) :
    tickWithRst Config.block n s = restOfTick Config.block 8 (microRst Config.block (firstOfTick Config.block n s)) :=
  if_neg pos.ne'

/-- The state of a TICK whose K2 has counted from EV = 0. -/
def State.countedFromZero (s : State) : State := { s with ev := 0x0010, sub := s.sub + 1, tph := .k3 }

theorem restOfTick_of_k2_of_zero {s : State} (hph : s.tph = .k2) (zero : s.ev = 0) (n : Nat) :
    restOfTick Config.block (n + 1) s = restOfTick Config.block n s.countedFromZero := by
  rw [restOfTick_of_k2 n hph, zero]
  rfl

/-- A TICK at K1 or K2 after a RST counts from zero. -/
theorem restOfTick_of_k1_or_k2_of_zero {s : State} (hph : s.tph = .k1 ∨ s.tph = .k2) (zero : s.ev = 0) :
    ∃ n, restOfTick Config.block 8 s = restOfTick Config.block (n + 6) s.countedFromZero := by
  rcases hph with hph | hph
  · exact ⟨0, (restOfTick_of_k1 7 hph (by rw [zero]; decide)).trans
      (restOfTick_of_k2_of_zero (s := s.toTick .k2) rfl zero 6)⟩
  · exact ⟨1, restOfTick_of_k2_of_zero hph zero 7⟩

/-- What RST leaves of a TICK at K1 or K2 in a run that comes from s. -/
theorem firstOfTick_one_or_two {s : State} (idle : s.tph = .idle) (run : s.run = true) (before : s.ev ≠ 0x9990)
    {n : Nat} (pos : 0 < n) (high : n < 3) :
    ∃ ph, (ph = .k1 ∨ ph = .k2) ∧ firstOfTick Config.block n s = (s.clear .slow).toTick ph := by
  interval_cases n
  · exact ⟨.k1, .inl rfl, firstOfTick_one_of_run _ idle run⟩
  · exact ⟨.k2, .inr rfl, firstOfTick_two idle run before⟩

/-! ## A TICK that takes no carry -/

/-- Nothing in the rest of a TICK past its hundredths step stops it or carries. -/
structure State.Plain (s : State) : Prop where
  ev : s.ev ≠ 0x9990
  sub : s.sub ≠ 10
  sec : s.sec ≠ 10
  c1 : s.c1 = false
  c2 : s.c2 = false

/-- The phase with the given ordinal (rule R83). -/
def phaseAt : Nat → TickPhase
  | 1 => .k1
  | 2 => .k2
  | 3 => .k3
  | 4 => .k4
  | 5 => .k5
  | 6 => .k6
  | 7 => .k7
  | 8 => .k8
  | _ => .idle

/-- A TICK without carries only moves on. -/
theorem microTick_of_plain {s : State} (h : s.Plain) {n : Nat} (low : 3 ≤ n) (high : n ≤ 7)
    (hph : s.tph = phaseAt n) : microTick Config.block s = s.toTick (phaseAt (n + 1)) := by
  interval_cases n
  · exact (microTick_of_k3 _ hph).trans (terminalTest_of_ne_terminal _ _ h.ev)
  · exact (microTick_of_k4 _ hph).trans (microK4_of_no_carry h.sub)
  · exact (microTick_of_k5 _ hph).trans (terminalTest_of_ne_terminal _ _ h.ev)
  · exact (microTick_of_k6 _ hph).trans (microK6_of_no_carry h.sec)
  · exact (microTick_of_k7 _ hph).trans (terminalTest_of_ne_terminal _ _ h.ev)

theorem restOfTick_of_plain {s : State} (h : s.Plain) {n : Nat} (low : 3 ≤ n) (high : n ≤ 8)
    (hph : s.tph = phaseAt n) (m : Nat) :
    restOfTick Config.block (m + (9 - n)) s = { s.endTick with ev := s.ev &&& 0xFFF0 } := by
  induction high using Nat.decreasingInduction generalizing s with
  | self =>
    rw [restOfTick_of_k8 m hph, safetyNet, if_pos ⟨h.c1, h.c2⟩]
  | of_succ k high ih =>
    have inProgress : s.tph ≠ .idle := by
      rw [hph]
      interval_cases k <;> decide
    rw [show m + (9 - k) = m + (9 - (k + 1)) + 1 by omega, restOfTick_succ_of_tph_ne_idle _ _ inProgress,
      microTick_of_plain h low (by omega) hph]
    exact ih ⟨h.ev, h.sub, h.sec, h.c1, h.c2⟩ (by omega) rfl

theorem restOfTick_eight_of_plain {s : State} (h : s.Plain) {n : Nat} (low : 3 ≤ n) (high : n ≤ 8)
    (hph : s.tph = phaseAt n) : restOfTick Config.block 8 s = { s.endTick with ev := s.ev &&& 0xFFF0 } := by
  have rest := restOfTick_of_plain h low high hph (n - 1)
  rwa [show n - 1 + (9 - n) = 8 by omega] at rest

/-- The states a TICK without carries goes through after its hundredths step. -/
theorem firstOfTick_of_plain {s : State} (third : firstOfTick Config.block 3 s = s.atSecondsCarry.toTick .k3)
    (h : s.atSecondsCarry.Plain) {n : Nat} (low : 3 ≤ n) (high : n ≤ 8) :
    firstOfTick Config.block n s = s.atSecondsCarry.toTick (phaseAt n) := by
  induction n, low using Nat.le_induction with
  | base => exact third
  | succ n low ih =>
    have plain : (s.atSecondsCarry.toTick (phaseAt n)).Plain := ⟨h.ev, h.sub, h.sec, h.c1, h.c2⟩
    rw [firstOfTick_succ, ih (by omega), microTick_of_plain plain low (by omega) rfl]
    rfl

/-- The end of a TICK without carries. -/
theorem firstOfTick_nine_of_plain {s : State} (third : firstOfTick Config.block 3 s = s.atSecondsCarry.toTick .k3)
    (h : s.atSecondsCarry.Plain) :
    firstOfTick Config.block 9 s =
      { s.atSecondsCarry.endTick with ev := safetyNet (s.atSecondsCarry.toTick .k8) } := by
  rw [firstOfTick_succ, firstOfTick_of_plain third h (by omega) (le_refl 8), microTick_of_k8 _ rfl, microK8_block]
  rfl

/-- Settles O59: RST clears EV; a TICK that has not counted yet counts from zero, and one that has counted takes no
carry afterwards. -/
theorem rstInsideAPlainTick : Obligations.RstInsideAPlainTick := by
  intro n s bound idle c1 c2 run before after sub sec
  have sub' : s.sub + 1 ≠ 10 := by bv_omega
  have plain : s.atSecondsCarry.Plain := ⟨after, sub', sec, c1, c2⟩
  have third := firstOfTick_three idle run before
  rcases Nat.eq_zero_or_pos n with rfl | pos
  · rw [tickWithRst_zero]
    exact ⟨rfl, rfl, rfl, rfl, rfl⟩
  rw [tickWithRst_of_pos pos, if_neg (show n ≠ 0 by omega)]
  rcases Nat.lt_or_ge n 3 with early | counted
  · obtain ⟨ph, hph, first⟩ := firstOfTick_one_or_two idle run before pos early
    rw [first, if_pos (by omega)]
    obtain ⟨m, rest⟩ := restOfTick_of_k1_or_k2_of_zero (s := microRst Config.block ((s.clear .slow).toTick ph)) hph rfl
    have plain' : (microRst Config.block ((s.clear .slow).toTick ph)).countedFromZero.Plain :=
      ⟨show (0x0010 : EvWord) ≠ 0x9990 by decide, sub', sec, c1, c2⟩
    rw [Eq.trans rest (restOfTick_of_plain plain' (le_refl 3) (by omega) rfl m)]
    exact ⟨rfl, rfl, rfl, show (0x0010 : EvWord) &&& 0xFFF0 = 0x0010 by decide, rfl⟩
  rw [if_neg (by omega)]
  rcases Nat.lt_or_ge n 9 with inProgress | ended
  · have plain' : (microRst Config.block (s.atSecondsCarry.toTick (phaseAt n))).Plain :=
      ⟨show (0 : EvWord) ≠ 0x9990 by decide, sub', sec, c1, c2⟩
    rw [firstOfTick_of_plain third plain counted (by omega),
      restOfTick_eight_of_plain plain' counted (by omega) rfl]
    exact ⟨rfl, rfl, rfl, show (0 : EvWord) &&& 0xFFF0 = 0 by decide, rfl⟩
  · obtain rfl : n = 9 := by omega
    rw [firstOfTick_nine_of_plain third plain, restOfTick_idle _ _ rfl]
    exact ⟨rfl, rfl, rfl, rfl, rfl⟩

/-! ## A TICK that takes both carries -/

/-- The seconds carry as it is taken. -/
def State.afterSecondsCarry (s : State) : State :=
  { s with ev := (s.ev + 0x0100) &&& 0xFF0F, sub := 0, sec := s.sec + 1, c1 := true, tph := .k5 }

/-- The minutes carry as it is taken. -/
def State.afterMinutesCarry (s : State) : State :=
  { s with ev := (s.ev + 0x1000) &&& 0xF0FF, sec := 0, c2 := true, tph := .k7 }

/-- The states a TICK with both carries goes through from the seconds carry on. -/
theorem firstOfTick_of_bothCarries {s : State} (fourth : firstOfTick Config.block 4 s = s.atSecondsCarry)
    (sub : s.sub + 1 = 10) (sec : s.sec + 1 = 10) :
    firstOfTick Config.block 5 s = s.atSecondsCarry.afterSecondsCarry ∧
    firstOfTick Config.block 6 s = s.atSecondsCarry.afterSecondsCarry.toTick .k6 ∧
    firstOfTick Config.block 7 s = s.atSecondsCarry.afterSecondsCarry.afterMinutesCarry ∧
    firstOfTick Config.block 8 s = s.atSecondsCarry.afterSecondsCarry.afterMinutesCarry.toTick .k8 ∧
    firstOfTick Config.block 9 s = s.atSecondsCarry.afterSecondsCarry.afterMinutesCarry.endTick := by
  have fifth : firstOfTick Config.block 5 s = s.atSecondsCarry.afterSecondsCarry := by
    rw [firstOfTick_succ, fourth, microTick_of_k4 _ rfl]
    exact microK4_eq_of_carry sub
  have sixth : firstOfTick Config.block 6 s = s.atSecondsCarry.afterSecondsCarry.toTick .k6 := by
    rw [firstOfTick_succ, fifth, microTick_of_k5 _ rfl]
    exact terminalTest_of_ne_terminal _ _ (maskS_ne_terminal _)
  have seventh : firstOfTick Config.block 7 s = s.atSecondsCarry.afterSecondsCarry.afterMinutesCarry := by
    rw [firstOfTick_succ, sixth, microTick_of_k6 _ rfl]
    exact microK6_eq_of_carry sec
  have eighth : firstOfTick Config.block 8 s = s.atSecondsCarry.afterSecondsCarry.afterMinutesCarry.toTick .k8 := by
    rw [firstOfTick_succ, seventh, microTick_of_k7 _ rfl]
    exact terminalTest_of_ne_terminal _ _ (maskM_ne_terminal _)
  refine ⟨fifth, sixth, seventh, eighth, ?_⟩
  rw [firstOfTick_succ, eighth, microTick_of_k8 _ rfl]
  rfl

/-- Both carries fire on an EV below 0x0100. -/
theorem restOfTick_of_k4_of_bothCarries {s : State} (hph : s.tph = .k4) (sub : s.sub = 10) (sec : s.sec = 9)
    (low : s.ev = 0 ∨ s.ev = 0x0010) (n : Nat) :
    restOfTick Config.block (n + 5) s = { s.endTick with ev := 0x1000, sub := 0, sec := 0 } := by
  have carried : (((s.ev + 0x0100) &&& 0xFF0F) + 0x1000) &&& 0xF0FF = 0x1000 := by
    rcases low with low | low <;> rw [low] <;> decide
  refine Eq.trans (restOfTick_of_k4_of_carry (n + 3) hph sub) (Eq.trans (restOfTick_of_k6_of_carry n rfl ?_) ?_)
  · rw [sec]
    rfl
  · rw [carried]
    rfl

theorem restOfTick_of_k3_of_bothCarries {s : State} (hph : s.tph = .k3) (sub : s.sub = 10) (sec : s.sec = 9)
    (low : s.ev = 0 ∨ s.ev = 0x0010) (n : Nat) :
    restOfTick Config.block (n + 6) s = { s.endTick with ev := 0x1000, sub := 0, sec := 0 } := by
  have before : s.ev ≠ 0x9990 := by rcases low with low | low <;> rw [low] <;> decide
  exact (restOfTick_of_k3 (n + 5) hph before).trans
    (restOfTick_of_k4_of_bothCarries (s := s.toTick .k4) rfl sub sec low n)

/-- The minutes carry fires on a cleared EV. -/
theorem restOfTick_of_k6_of_zero {s : State} (hph : s.tph = .k6) (sec : s.sec = 10) (zero : s.ev = 0) (n : Nat) :
    restOfTick Config.block (n + 3) s = { s.endTick with ev := 0x1000, sec := 0 } := by
  rw [restOfTick_of_k6_of_carry n hph sec, zero]
  rfl

/-- Settles O60: RST clears EV; the carries that are still to come fire on the cleared value, and those that were
taken do not fire again. -/
theorem rstInsideADoubleCarry : Obligations.RstInsideADoubleCarry := by
  intro n s bound idle c1 c2 run before after sub sec
  have sub' : s.sub + 1 = 10 := by rw [sub]; rfl
  have sec' : s.sec + 1 = 10 := by rw [sec]; rfl
  have fourth := firstOfTick_four idle run before after
  obtain ⟨fifth, sixth, seventh, eighth, ninth⟩ := firstOfTick_of_bothCarries fourth sub' sec'
  rcases Nat.eq_zero_or_pos n with rfl | pos
  · rw [tickWithRst_zero]
    exact ⟨rfl, rfl, rfl, sub, sec⟩
  rw [tickWithRst_of_pos pos, if_neg (show n ≠ 0 by omega)]
  rcases Nat.lt_or_ge n 3 with early | counted
  · obtain ⟨ph, hph, first⟩ := firstOfTick_one_or_two idle run before pos early
    rw [first, if_pos (by omega)]
    obtain ⟨m, rest⟩ := restOfTick_of_k1_or_k2_of_zero (s := microRst Config.block ((s.clear .slow).toTick ph)) hph rfl
    rw [Eq.trans rest (restOfTick_of_k3_of_bothCarries
      (s := (microRst Config.block ((s.clear .slow).toTick ph)).countedFromZero) rfl sub' sec (.inr rfl) m)]
    exact ⟨rfl, rfl, rfl, rfl, rfl⟩
  interval_cases n
  · rw [firstOfTick_three idle run before, restOfTick_of_k3_of_bothCarries
      (s := microRst Config.block (s.atSecondsCarry.toTick .k3)) rfl sub' sec (.inl rfl) 2]
    exact ⟨rfl, rfl, rfl, rfl, rfl⟩
  · rw [fourth, restOfTick_of_k4_of_bothCarries
      (s := microRst Config.block s.atSecondsCarry) rfl sub' sec (.inl rfl) 3]
    exact ⟨rfl, rfl, rfl, rfl, rfl⟩
  · rw [fifth, restOfTick_of_k5
      (s := microRst Config.block s.atSecondsCarry.afterSecondsCarry) 7 rfl (by rw [microRst_block]; simp),
      restOfTick_of_k6_of_zero
      (s := (microRst Config.block s.atSecondsCarry.afterSecondsCarry).toTick .k6) rfl sec' rfl 4]
    exact ⟨rfl, rfl, rfl, rfl, rfl⟩
  · rw [sixth, restOfTick_of_k6_of_zero
      (s := microRst Config.block (s.atSecondsCarry.afterSecondsCarry.toTick .k6)) rfl sec' rfl 5]
    exact ⟨rfl, rfl, rfl, rfl, rfl⟩
  · rw [seventh, restOfTick_of_k7
      (s := microRst Config.block s.atSecondsCarry.afterSecondsCarry.afterMinutesCarry) 6 rfl
      (by rw [microRst_block]; simp)]
    exact ⟨rfl, rfl, rfl, rfl, rfl⟩
  · rw [eighth, restOfTick_of_k8
      (s := microRst Config.block (s.atSecondsCarry.afterSecondsCarry.afterMinutesCarry.toTick .k8)) 7 rfl]
    exact ⟨rfl, rfl, rfl, rfl, rfl⟩
  · rw [ninth, restOfTick_idle _ _ rfl]
    exact ⟨rfl, rfl, rfl, rfl, rfl⟩

end Sys2Proof.Machine

/-! PROOFS. The micro-operations of ADV, the digit3 decode and the encoder, row by row
(spec/41_digit_multiplexer.md sections 2 and 3, spec/40_display_encoder.md). -/

namespace Sys2Proof.Machine

/-! ## Where a row that names a phase completes -/

/-- The row of an ADV phase runs the micro-operation of that phase, where it is enabled. -/
theorem exec_advRow (ph : AdvPhase) (s : State) :
    exec (advRow ph) s = whenEnabled (advEnabled ph s) (microAdv Config.block s) := by
  cases enabled : advEnabled ph s with
  | true =>
    obtain ⟨htph, hslow, haph, requested⟩ := advEnabled_iff.mp enabled
    exact exec_advRow_of_atAdv ⟨htph, hslow, haph⟩ requested
  | false => cases ph <;> exact whenEnabled_eq_refused.mpr ⟨enabled, rfl⟩

/-- The row of a TICK phase runs the micro-operation of that phase, where it is enabled. -/
theorem exec_tickRow (ph : TickPhase) (s : State) :
    exec (tickRow ph) s = whenEnabled (tickEnabled ph s) (microTick Config.block s) := by
  cases enabled : tickEnabled ph s with
  | true =>
    obtain ⟨htph, requested⟩ := tickEnabled_iff.mp enabled
    exact exec_tickRow_of_tph htph requested
  | false => cases ph <;> exact whenEnabled_eq_refused.mpr ⟨enabled, rfl⟩

theorem exec_advRow_eq_next {ph : AdvPhase} {s t : State} :
    exec (advRow ph) s = .next t ↔ advEnabled ph s = true ∧ t = microAdv Config.block s := by
  rw [exec_advRow, whenEnabled_eq_next]

theorem exec_tickRow_eq_next {ph : TickPhase} {s t : State} :
    exec (tickRow ph) s = .next t ↔ tickEnabled ph s = true ∧ t = microTick Config.block s := by
  rw [exec_tickRow, whenEnabled_eq_next]

theorem mem_advMicroRows {i : Instr} : i ∈ advMicroRows ↔ ∃ ph, i = advRow ph := by
  constructor
  · intro h
    simp only [advMicroRows, List.mem_cons, List.not_mem_nil, or_false] at h
    rcases h with rfl | rfl | rfl | rfl | rfl | rfl
    exacts [⟨.idle, rfl⟩, ⟨.a1, rfl⟩, ⟨.a2, rfl⟩, ⟨.a3, rfl⟩, ⟨.a4, rfl⟩, ⟨.a5, rfl⟩]
  · rintro ⟨ph, rfl⟩
    cases ph <;> decide

theorem microK4_tph (c : Config) (s : State) : (microK4 c s).tph = .k5 := by
  unfold microK4
  split <;> rfl

theorem microK6_tph (c : Config) (s : State) : (microK6 c s).tph = .k7 := by
  unfold microK6
  split <;> rfl

theorem microK8_tph (c : Config) (s : State) : (microK8 c s).tph = .idle := by
  unfold microK8
  split <;> rfl

/-- A terminal test ends the TICK or goes on. -/
theorem terminalTest_tph (c : Config) (made : Bool) (next : TickPhase) (s : State) :
    (terminalTest c made next s).tph = .idle ∨ (terminalTest c made next s).tph = next :=
  (terminalTest_phases c made next s).2.2

/-- Settles O19: a phase in progress is enabled, TICK goes on or ends, and ADV goes on. -/
theorem operationsInProgressAdvanceAndEnd : Obligations.OperationsInProgressAdvanceAndEnd := by
  refine ⟨fun s inProgress => ⟨_, exec_tickRow_of_tph rfl fun idle => absurd idle inProgress, ?_⟩,
    fun s idle noTick inProgress =>
      ⟨_, exec_advRow_of_atAdv ⟨idle, noTick, rfl⟩ fun idle => absurd idle inProgress, ?_⟩⟩
  · unfold microTick
    cases h : s.tph with
    | idle => exact absurd h inProgress
    | k1 => simpa [microK1] using terminalTest_tph _ true .k2 s
    | k2 => simp [microK2]
    | k3 => simpa [microK3] using terminalTest_tph _ true .k4 s
    | k4 => simp [microK4_tph]
    | k5 => simpa [microK5] using terminalTest_tph _ s.c1 .k6 s
    | k6 => simp [microK6_tph]
    | k7 => simpa [microK7] using terminalTest_tph _ s.c2 .k8 s
    | k8 => simp [microK8_tph]
  · unfold microAdv
    cases h : s.aph with
    | idle => exact absurd h inProgress
    | a1 => exact .inl ⟨rfl, rfl⟩
    | a2 => exact .inr (.inl ⟨rfl, rfl⟩)
    | a3 => exact .inr (.inr (.inl ⟨rfl, microA3_aph _ s⟩))
    | a4 => exact .inr (.inr (.inr (.inl ⟨rfl, rfl⟩)))
    | a5 => exact .inr (.inr (.inr (.inr ⟨rfl, rfl⟩)))

/-! ## The encoder and the digit3 decode of the block -/

theorem encOfRule100_of_digit {d : Nibble} (h : d.toNat ≤ 9) (n : Nat) :
    segTabRead Config.block d = some (encOfRule100 d n) := by
  obtain ⟨k, hk, rfl⟩ : ∃ k ≤ 9, d = BitVec.ofNat 4 k := ⟨d.toNat, h, by simp⟩
  interval_cases k <;> rfl

theorem encOfRule100_of_outOfRange {d : Nibble} (h : 9 < d.toNat) (n : Nat) : encOfRule100 d n = Config.any8 n := by
  unfold encOfRule100
  split
  iterate 10 omega
  rfl

/-- In the block SEG takes ENC(D) of rules R100 to R102, and a draw is made for an index above 9. -/
theorem writeEnc_block (s : State) (d : Nibble) :
    s.writeEnc Config.block d = { s with seg := encOfRule100 d s.draws, draws := drawsAfter d s.draws } := by
  unfold State.writeEnc drawsAfter
  rcases Nat.lt_or_ge 9 d.toNat with outOfRange | digit
  · rw [segTabRead_eq_none.mpr outOfRange, encOfRule100_of_outOfRange outOfRange, if_pos outOfRange]
  · rw [encOfRule100_of_digit digit s.draws, if_neg (not_lt.mpr digit)]

theorem microA3_of_colon {s : State} (h : s.p = .colon) :
    microA3 Config.block s = { s with seg := Config.block.colonPat, aph := .a4 } :=
  if_pos h

theorem microA3_of_digit {s : State} (h : s.p ≠ .colon) :
    microA3 Config.block s =
      { s with seg := encOfRule100 s.d s.draws, draws := drawsAfter s.d s.draws, aph := .a4 } := by
  rw [microA3, if_neg h, writeEnc_block]
  rfl

theorem d3dec_block (f : Nibble) : d3dec Config.block f = d3decOfRule114 f := by
  revert f; decide

/-! ## The micro-operations -/

theorem clampCursor_of_le {cur : Cursor} (h : cur.toNat ≤ 4) : clampCursor cur = cur := by
  revert cur; decide

theorem positionOf_clamped {cur : Cursor} (h : 4 < cur.toNat) : positionOf cur = .digit0 ∧ clampCursor cur = 0 := by
  revert cur; decide

/-- Settles O20: A0 latches the position whose number it leaves in CUR. -/
theorem dispatchLatchesThePositionAndClamps : Obligations.DispatchLatchesThePositionAndClamps := by
  intro s h
  have runs : exec .advA0 s = .next (microA0 s) := whenEnabled_eq_next.mpr ⟨advEnabled_of_atA0 h, rfl⟩
  refine ⟨fun low => ⟨positionOf s.cur, ?_, ?_⟩, fun high => ?_⟩
  · rw [← clampCursor_toNat, clampCursor_of_le low]
  · rw [runs, microA0, clampCursor_of_le low]
    rfl
  · obtain ⟨position, cursor⟩ := positionOf_clamped high
    rw [runs, microA0, position, cursor]
    rfl

/-- Settles O22: the field of each position, and the digit3 decode at position 3. -/
theorem extractLatchesTheFieldOfThePosition : Obligations.ExtractLatchesTheFieldOfThePosition := by
  intro s h
  obtain ⟨htph, hslow, haph⟩ := h
  refine whenEnabled_eq_next.mpr ⟨advEnabled_iff.mpr ⟨htph, hslow, haph, nofun⟩, ?_⟩
  unfold microA2 extract
  cases s.p <;> simp only [d3dec_block, field_eq_extractLsb']

/-- A3 alone writes SEG. -/
theorem microAdv_seg (c : Config) {s : State} (h : s.aph ≠ .a3) : (microAdv c s).seg = s.seg := by
  unfold microAdv
  cases haph : s.aph with
  | a3 => exact absurd haph h
  | idle | a1 | a2 | a4 | a5 => rfl

/-- Settles O23: A3 as ENC of rule R100; no other phase's micro-operation writes SEG. -/
theorem segmentsAreWrittenOnceFromTheEncoder : Obligations.SegmentsAreWrittenOnceFromTheEncoder := by
  refine ⟨fun s ⟨htph, hslow, haph⟩ => ?_, fun i s t hi notA3 h => ?_⟩
  · refine whenEnabled_eq_next.mpr ⟨advEnabled_iff.mpr ⟨htph, hslow, haph, nofun⟩, ?_⟩
    split
    · next colon => exact (microA3_of_colon colon).symm
    · next digit => exact (microA3_of_digit digit).symm
  · obtain ⟨ph, rfl⟩ := mem_advMicroRows.mp hi
    obtain ⟨enabled, rfl⟩ := exec_advRow_eq_next.mp h
    obtain ⟨-, -, haph, -⟩ := advEnabled_iff.mp enabled
    refine microAdv_seg _ fun a3 => notA3 ?_
    rw [← haph, a3]
    rfl

theorem cursorAfter_toNat (p : Position) :
    (cursorAfter p).toNat = if p = .colon then 0 else Position.index p + 1 := by
  cases p <;> decide

/-- Settles O25: the cursor after each position. -/
theorem cursorAdvancesAndWrapsAfterTheColon : Obligations.CursorAdvancesAndWrapsAfterTheColon :=
  fun s ⟨htph, hslow, haph⟩ =>
    ⟨microA5 s, whenEnabled_eq_next.mpr ⟨advEnabled_iff.mpr ⟨htph, hslow, haph, nofun⟩, rfl⟩, rfl,
      cursorAfter_toNat s.p⟩

/-! ## The rows of the digit3 decode and of the encoder -/

theorem execD3Row_of_atAdv {s : State} {inRow : Bool} {f : Nibble} (h : s.atAdv .a2) (position : s.p = .digit3)
    (row : inRow = true) (hf : field s.ev 3 = f) :
    execD3Row inRow f s = .next { s with d := d3decOfRule114 f, aph := .a3 } := by
  obtain ⟨htph, hslow, haph⟩ := h
  have enabled : advEnabled .a2 s = true := advEnabled_iff.mpr ⟨htph, hslow, haph, nofun⟩
  refine whenEnabled_eq_next.mpr ⟨by simp [enabled, position, row, hf], ?_⟩
  simp [microA2, extract, position, d3dec_block, hf]

/-- Settles O29: in each row the decode is the identity or a sentinel's digit. -/
theorem digit3DecodeRowsLatchTheirDigit : Obligations.Digit3DecodeRowsLatchTheirDigit := by
  intro s h position
  have generic07 : ∀ f : Nibble, f ≤ 7 → d3decOfRule114 f = f := by decide
  have genericAB : ∀ f : Nibble, f = 0xA ∨ f = 0xB → d3decOfRule114 f = f := by decide
  have genericCD : ∀ f : Nibble, f = 0xC ∨ f = 0xD → d3decOfRule114 f = f := by decide
  refine ⟨fun f range hf => ?_, fun hf => execD3Row_of_atAdv h position rfl hf,
    fun hf => execD3Row_of_atAdv h position rfl hf, fun f range hf => ?_, fun f range hf => ?_,
    fun hf => execD3Row_of_atAdv h position rfl hf, fun hf => execD3Row_of_atAdv h position rfl hf⟩
  · exact (execD3Row_of_atAdv h position (decide_eq_true range) hf).trans (by rw [generic07 f range])
  · exact (execD3Row_of_atAdv h position (by simpa using range) hf).trans (by rw [genericAB f range])
  · exact (execD3Row_of_atAdv h position (by simpa using range) hf).trans (by rw [genericCD f range])

theorem execEncRow_of_atAdv {s : State} {inRow : Bool} {d : Nibble} (h : s.atAdv .a3) (position : s.p ≠ .colon)
    (row : inRow = true) (hd : s.d = d) :
    execEncRow inRow d s =
      .next { s with seg := encOfRule100 d s.draws, draws := drawsAfter d s.draws, aph := .a4 } := by
  obtain ⟨htph, hslow, haph⟩ := h
  have enabled : advEnabled .a3 s = true := advEnabled_iff.mpr ⟨htph, hslow, haph, nofun⟩
  refine whenEnabled_eq_next.mpr ⟨by simp [enabled, position, row, hd], ?_⟩
  rw [microA3_of_digit position, hd]

/-- Settles O30: ENC of each digit, without a draw. -/
theorem encoderRowsWriteTheirPattern : Obligations.EncoderRowsWriteTheirPattern := by
  intro s h position
  refine ⟨fun hd => ?_, fun hd => ?_, fun hd => ?_, fun hd => ?_, fun hd => ?_, fun hd => ?_, fun hd => ?_,
    fun hd => ?_, fun hd => ?_, fun hd => ?_⟩ <;> exact execEncRow_of_atAdv h position rfl hd

/-- Settles O31: ENC of an index above 9 is a draw. -/
theorem encoderOutOfRangeDrawsAFreshValue : Obligations.EncoderOutOfRangeDrawsAFreshValue := by
  intro d s h position hd
  have draw : 9 < d.toNat → ∀ inRow, inRow = true → execEncRow inRow d s =
      .next { s with seg := Config.any8 s.draws, draws := s.draws + 1, aph := .a4 } := by
    intro outOfRange inRow row
    rw [execEncRow_of_atAdv h position row hd, encOfRule100_of_outOfRange outOfRange, drawsAfter, if_pos outOfRange]
  refine ⟨fun range => draw ?_ _ (by simpa using range), fun range => draw ?_ _ (decide_eq_true range)⟩
  · rcases range with rfl | rfl <;> decide
  · exact Nat.lt_of_lt_of_le (by decide) (BitVec.le_def.mp range)

/-! ## The patterns -/

/-- COLON_PAT meets the constraint of rule R122 whatever the free byte is. -/
theorem colonPattern_notMem : Config.colonPattern ∉ Config.digitPatterns.toList := by
  unfold Config.colonPattern
  split
  · next distinct =>
    intro mem
    simpa using List.all_eq_true.mp distinct _ mem
  · decide

/-- Settles O35: the ten patterns of rule R101, segment by segment. -/
theorem digitPatternsAreTheCanonicalOnes : Obligations.DigitPatternsAreTheCanonicalOnes :=
  ⟨by decide, by decide, by decide, by decide, colonPattern_notMem⟩

theorem microTick_seg (c : Config) (s : State) : (microTick c s).seg = s.seg :=
  congrArg (fun display => display.2.1) (microTick_displayPart c s)

theorem microAdv_dsel_of_a3 (c : Config) {s : State} (h : s.aph = .a3) : (microAdv c s).dsel = s.dsel := by
  rw [show microAdv c s = microA3 c s by simp [microAdv, h]]
  rcases microA3_cases c s with ⟨-, eq⟩ | ⟨-, pattern, -, eq⟩ | ⟨-, -, eq⟩ <;> rw [eq]

/-- Settles O36: of the steps of the block A3 alone writes SEG, and in a run the display is blank at A3. -/
theorem segmentsChangeOnlyWhileBlank : Obligations.SegmentsChangeOnlyWhileBlank := by
  intro i s t inv hi h changed
  have noWholeAdv : ∀ j ∈ wholeAdvRows, j ∉ stepRows := by decide
  rcases exec_next_cases h with ⟨-, rfl⟩ | ⟨rfl, -⟩ | ⟨-, -, rfl⟩ | ⟨-, -, rfl⟩ | ⟨-, -, rfl⟩ | ⟨rfl, -⟩ |
    ⟨-, -, rfl⟩ | ⟨-, -, whole⟩ | ⟨-, -, -, -, -, rfl⟩
  · exact absurd rfl changed
  · exact absurd hi (by decide)
  · exact absurd rfl changed
  · exact absurd rfl changed
  · exact absurd rfl changed
  · exact absurd hi (by decide)
  · exact absurd (microTick_seg _ s) changed
  · exact absurd hi (noWholeAdv i whole)
  · have a3 : s.aph = .a3 := by
      by_contra other
      exact changed (microAdv_seg _ other)
    have blank : s.dsel = 0x1F := inv.display.blanked (.inr (.inl a3))
    exact ⟨blank, (microAdv_dsel_of_a3 _ a3).trans blank⟩

end Sys2Proof.Machine

/-! PROOFS. ADV as a whole: its sub-routines, the rotation of the positions and the display of the terminal value
(spec/41_digit_multiplexer.md sections 1, 3 and 4). -/

namespace Sys2Proof.Machine

/-! ## The whole ADV by its position -/

/-- The state of an uninterrupted ADV after A2, with the position p and the digit d latched. -/
def State.afterA2 (s : State) (p : Position) (d : Nibble) : State :=
  { s with pend := s.pend &&& 0x17, cur := clampCursor s.cur, dsel := 0x1F, p := p, d := d, aph := .a3 }

theorem microA2_of_position {s : State} {p : Position} (position : positionOf s.cur = p) {d : Nibble}
    (shows : extract Config.block (microA1 (microA0 s)) = d) :
    microA2 Config.block (microA1 (microA0 s)) = s.afterA2 p d := by
  rw [microA2, shows, ← position]
  rfl

/-- An uninterrupted ADV that draws a digit position shows the digit d that its field gives. -/
theorem wholeAdv_of_digit {s : State} {p : Position} (position : positionOf s.cur = p) (digit : p ≠ .colon) {d : Nibble}
    (shows : ∀ t : State, t.ev = s.ev → t.p = p → extract Config.block t = d) :
    wholeAdv Config.block s = { s with
      pend := s.pend &&& 0x17, p := p, d := d, seg := encOfRule100 d s.draws, draws := drawsAfter d s.draws,
      dsel := dselPat p, cur := cursorAfter p, aph := .idle } := by
  rw [wholeAdv, microA2_of_position position (shows _ rfl position), microA3_of_digit (s := s.afterA2 p d) digit]
  rfl

/-- An uninterrupted ADV that draws the colon reads no field. -/
theorem wholeAdv_of_colon {s : State} (position : positionOf s.cur = .colon) :
    wholeAdv Config.block s = { s with
      pend := s.pend &&& 0x17, p := .colon, seg := Config.block.colonPat, dsel := dselPat .colon,
      cur := cursorAfter .colon, aph := .idle } := by
  have shows : extract Config.block (microA1 (microA0 s)) = s.d := by
    rw [extract, show (microA1 (microA0 s)).p = .colon from position]
    rfl
  rw [wholeAdv, microA2_of_position position shows, microA3_of_colon (s := s.afterA2 .colon s.d) rfl]
  rfl

/-- Where an uninterrupted ADV leaves the display, whatever it shows there. -/
theorem wholeAdv_position (c : Config) (s : State) :
    (wholeAdv c s).p = positionOf s.cur ∧ (wholeAdv c s).dsel = dselPat (positionOf s.cur) ∧
      (wholeAdv c s).cur = cursorAfter (positionOf s.cur) ∧ (wholeAdv c s).aph = .idle ∧
      (wholeAdv c s).pend = s.pend &&& 0x17 := by
  have keeps : ∀ t : State, (microA3 c t).p = t.p ∧ (microA3 c t).pend = t.pend := fun t => by
    rcases microA3_cases c t with ⟨-, eq⟩ | ⟨-, pattern, -, eq⟩ | ⟨-, -, eq⟩ <;> rw [eq] <;> exact ⟨rfl, rfl⟩
  obtain ⟨p, pend⟩ := keeps (microA2 c (microA1 (microA0 s)))
  exact ⟨p, congrArg dselPat p, congrArg cursorAfter p, rfl, pend⟩

/-! ## What each digit position shows -/

section
variable {s t : State} (ev : t.ev = s.ev)
include ev

theorem extract_digit0 (p : t.p = .digit0) : extract Config.block t = field s.ev 0 := by rw [extract, p, ev]
theorem extract_digit1 (p : t.p = .digit1) : extract Config.block t = field s.ev 1 := by rw [extract, p, ev]
theorem extract_digit2 (p : t.p = .digit2) : extract Config.block t = field s.ev 2 := by rw [extract, p, ev]

theorem extract_digit3 (p : t.p = .digit3) : extract Config.block t = d3decOfRule114 (field s.ev 3) := by
  rw [← d3dec_block, ← ev, extract, p]

end

/-! ## The sub-routines -/

theorem execSubroutine_of_atA0 {s : State} (h : s.atA0) {selected : Bool} (hs : selected = true) :
    execSubroutine selected s = .next (wholeAdv Config.block s) :=
  whenEnabled_eq_next.mpr ⟨by rw [advEnabled_of_atA0 h, hs]; rfl, rfl⟩

/-- Settles O26: each sub-routine is the whole ADV at its cursor; A1 blanks the display on the way. -/
theorem digitSubroutinesShowTheirField : Obligations.DigitSubroutinesShowTheirField := by
  refine ⟨fun s h cur => ?_, fun s h cur => ?_, fun s h cur => ?_, fun s h cur => ?_, fun _ => rfl⟩
  · have position : positionOf s.cur = .digit0 := by rw [cur]; rfl
    refine (execSubroutine_of_atA0 h (by simp [cur])).trans ?_
    rw [wholeAdv_of_digit position nofun fun _ => extract_digit0]
    rfl
  · have position : positionOf s.cur = .digit1 := by rw [cur]; rfl
    refine (execSubroutine_of_atA0 h (by simp [cur])).trans ?_
    rw [wholeAdv_of_digit position nofun fun _ => extract_digit1]
    rfl
  · have position : positionOf s.cur = .digit2 := by rw [cur]; rfl
    refine (execSubroutine_of_atA0 h (by simp [cur])).trans ?_
    rw [wholeAdv_of_digit position nofun fun _ => extract_digit2]
    rfl
  · have position : positionOf s.cur = .digit3 := by rw [cur]; rfl
    refine (execSubroutine_of_atA0 h (by simp [cur])).trans ?_
    rw [wholeAdv_of_digit position nofun fun _ => extract_digit3]
    rfl

/-- Settles O27: CUR = 4 names the colon, and a CUR above 4 is clamped to position 0. -/
theorem colonAndClampSubroutines : Obligations.ColonAndClampSubroutines := by
  refine ⟨fun s h cur => ?_, fun s h cur => ?_, fun c s h high cur => ?_⟩
  · have position : positionOf s.cur = .colon := by rw [cur]; rfl
    refine (execSubroutine_of_atA0 h (by simp [cur])).trans ?_
    rw [wholeAdv_of_colon position]
    rfl
  · have position : positionOf s.cur = .digit0 := by rw [cur]; rfl
    refine (execSubroutine_of_atA0 h (by simp [cur])).trans ?_
    rw [wholeAdv_of_digit position nofun fun _ => extract_digit0]
    rfl
  · have position : positionOf s.cur = .digit0 := by rw [cur]; rcases high with rfl | rfl <;> rfl
    refine (execSubroutine_of_atA0 h (by simpa [cur] using high)).trans ?_
    rw [wholeAdv_of_digit position nofun fun _ => extract_digit0]
    rfl

theorem decode_cur (c : Cursor) : decode .cur (c.setWidth 8) = decodeCur c := by
  revert c; decide

/-- The row that CUR decodes to runs the whole ADV. -/
theorem exec_decodeCur {s : State} (h : s.atA0) :
    ∃ i, decodeCur s.cur = .instr i ∧ exec i s = .next (wholeAdv Config.block s) := by
  have range : ∀ c : Cursor, c = 0 ∨ c = 1 ∨ c = 2 ∨ c = 3 ∨ c = 4 ∨ c = 5 ∨ c = 6 ∨ c = 7 := by decide
  rcases range s.cur with cur | cur | cur | cur | cur | cur | cur | cur <;> rw [cur]
  · exact ⟨.advD0, rfl, execSubroutine_of_atA0 h (by simp [cur])⟩
  · exact ⟨.advD1, rfl, execSubroutine_of_atA0 h (by simp [cur])⟩
  · exact ⟨.advD2, rfl, execSubroutine_of_atA0 h (by simp [cur])⟩
  · exact ⟨.advD3, rfl, execSubroutine_of_atA0 h (by simp [cur])⟩
  · exact ⟨.advColon, rfl, execSubroutine_of_atA0 h (by simp [cur])⟩
  · exact ⟨.advClamp5, rfl, execSubroutine_of_atA0 h (by simp [cur])⟩
  · exact ⟨.advClamp67 6, rfl, execSubroutine_of_atA0 h (by simp [cur])⟩
  · exact ⟨.advClamp67 7, rfl, execSubroutine_of_atA0 h (by simp [cur])⟩

/-- Settles O28: the row of the dispatch runs the whole ADV, which is A0 to A5 by the phases they leave. -/
theorem wholeAdvRunsTheSubroutineOfTheCursor : Obligations.WholeAdvRunsTheSubroutineOfTheCursor := by
  refine ⟨fun s h => ?_, fun s t0 t1 t2 t3 t4 t5 h0 h1 h2 h3 h4 h5 => ?_⟩
  · obtain ⟨i, decoded, runs⟩ := exec_decodeCur h
    exact ⟨i, _, (decode_cur s.cur).trans decoded, runs, exec_adv_of_atA0 h⟩
  · obtain ⟨enabled, rfl⟩ := exec_advRow_eq_next (ph := .idle) |>.mp h0
    obtain ⟨-, rfl⟩ := exec_advRow_eq_next (ph := .a1) |>.mp h1
    obtain ⟨-, rfl⟩ := exec_advRow_eq_next (ph := .a2) |>.mp h2
    obtain ⟨-, rfl⟩ := exec_advRow_eq_next (ph := .a3) |>.mp h3
    obtain ⟨-, rfl⟩ := exec_advRow_eq_next (ph := .a4) |>.mp h4
    obtain ⟨-, rfl⟩ := exec_advRow_eq_next (ph := .a5) |>.mp h5
    obtain ⟨-, -, idle, -⟩ := advEnabled_iff.mp enabled
    rw [← wholeAdv_eq_microAdv _ idle]
    exact whenEnabled_eq_next.mpr ⟨enabled, rfl⟩

/-! ## Rotation -/

theorem index_positionOf {cur : Cursor} (h : cur.toNat ≤ 4) : Position.index (positionOf cur) = cur.toNat := by
  rw [← clampCursor_toNat, clampCursor_of_le h]

theorem cursorAfter_positionOf {cur : Cursor} (h : cur.toNat ≤ 4) :
    (cursorAfter (positionOf cur)).toNat = (cur.toNat + 1) % 5 := by
  revert cur; decide

theorem requests_or_fast_and {v : Requests} (h : v.getLsbD 3 = false) : (v ||| 0x08) &&& 0x17 = v := by
  revert v; decide

/-- The line ADV at rest is the whole ADV of the requested state. -/
theorem runLine_adv {s : State} (h : s.atRest) :
    runLine .adv s = .next (wholeAdv Config.block (s.raise 0x08)) := by
  obtain ⟨idle, advIdle, -, -, slow, -⟩ := h
  have legal : Line.legal s .adv = true := by simp [Line.legal, State.phasesIdle, idle, advIdle]
  have requested : (s.raise 0x08).atA0 :=
    ⟨idle, by simp [slow, pendBit], advIdle, by simp [pendBit]⟩
  calc runLine .adv s = runTurns [.req 0x08, .row .pend 0x08] s := if_pos legal
    _ = exec .adv (s.raise 0x08) := runTurns_request (by decide) _ _
    _ = .next (wholeAdv Config.block (s.raise 0x08)) := exec_adv_of_atA0 requested

theorem advTimes_succ (n : Nat) : advTimes (n + 1) = advTimes n ++ [.adv] := List.replicate_succ'

/-- One line ADV at rest: it draws the position of CUR, moves CUR on, and is at rest again. -/
theorem runLine_adv_rotates {s : State} (h : s.atRest) (range : s.cur.toNat ≤ 4) :
    ∃ t, runLine .adv s = .next t ∧ t.atRest ∧ t.cur.toNat = (s.cur.toNat + 1) % 5 ∧
      t.counterPart = s.counterPart ∧ t.pend = s.pend ∧ Position.index t.p = s.cur.toNat ∧
      enabledPositions t.dsel = [t.p] := by
  obtain ⟨p, dsel, cur, aph, pend⟩ := wholeAdv_position Config.block (s.raise 0x08)
  have counter : (wholeAdv Config.block (s.raise 0x08)).counterPart = s.counterPart := (wholeAdv_frame _ _).counter
  have pend' : (wholeAdv Config.block (s.raise 0x08)).pend = s.pend :=
    pend.trans (requests_or_fast_and h.2.2.2.2.2)
  refine ⟨_, runLine_adv h, ?_, ?_, counter, pend', ?_, ?_⟩
  · obtain ⟨idle, -, c1, c2, slow, fast⟩ := h
    have agree := agreePastGate_of_counterPart counter
    exact ⟨agree.tph ▸ idle, aph, agree.c1 ▸ c1, agree.c2 ▸ c2, (pending_congr pend' _).trans slow,
      (pending_congr pend' _).trans fast⟩
  · rw [cur]
    exact cursorAfter_positionOf range
  · rw [p]
    exact index_positionOf range
  · rw [p, dsel]
    exact enabledPositions_dselPat _

/-- Settles O33: by induction over n, with one line ADV as the step. -/
theorem advVisitsTheFivePositionsInTurn : Obligations.AdvVisitsTheFivePositionsInTurn := by
  intro n s rest range
  induction n with
  | zero => exact ⟨s, rfl, rest, (Nat.mod_eq_of_lt (by omega)).symm, rfl, rfl, nofun⟩
  | succ n ih =>
    obtain ⟨t, runs, rest', cur, counter, pend, -⟩ := ih
    obtain ⟨u, line, rest'', cur', counter', pend', drawn, enabled⟩ := runLine_adv_rotates rest' (by omega)
    refine ⟨u, ?_, rest'', by omega, counter'.trans counter, pend'.trans pend, fun _ => ⟨?_, enabled⟩⟩
    · rw [advTimes_succ, runLines_append runs, runLines_singleton, line]
    · rw [drawn, cur]
      rfl

/-! ## The terminal value -/

theorem positionOf_of_toNat {cur : Cursor} {p : Position} (h : cur.toNat = Position.index p) : positionOf cur = p := by
  cases p <;> simp [positionOf, h, Position.index]

/-- Settles O34: the fields of 0x9990 position by position. -/
theorem terminalValueShowsNinetyNineNinety : Obligations.TerminalValueShowsNinetyNineNinety := by
  refine ⟨rfl, fun p s h hev cur => ⟨_, exec_adv_of_atA0 h, ?_, ?_⟩⟩
  · obtain ⟨-, dsel, -⟩ := wholeAdv_position Config.block s
    rw [dsel, positionOf_of_toNat cur]
    exact enabledPositions_dselPat p
  · have position := positionOf_of_toNat cur
    cases p with
    | digit0 => rw [wholeAdv_of_digit position nofun fun _ => extract_digit0, hev]; rfl
    | digit1 => rw [wholeAdv_of_digit position nofun fun _ => extract_digit1, hev]; rfl
    | digit2 => rw [wholeAdv_of_digit position nofun fun _ => extract_digit2, hev]; rfl
    | digit3 => rw [wholeAdv_of_digit position nofun fun _ => extract_digit3, hev]; rfl
    | colon => rw [wholeAdv_of_colon position]

end Sys2Proof.Machine

/-! PROOFS. What the rows read: a row's kind fixes the operation it runs in every state, the counter's operations read
the counter alone, and those of ADV read the display and EV alone (spec/20_memory.md section 6, spec/10_state.md
section 6). -/

namespace Sys2Proof.Machine

/-! ## The operation of a row -/

/-- A row whose completion in any state is an uninterrupted ADV. -/
def RunsWholeAdv (i : Instr) : Prop :=
  ∀ s t, exec i s = .next t → advEnabled .idle s = true ∧ t = wholeAdv Config.block s

/-- A row whose completion in any state is the micro-operation of ADV at the phase ph. -/
def RunsMicroAdv (i : Instr) (ph : AdvPhase) : Prop :=
  ∀ s t, exec i s = .next t → advEnabled ph s = true ∧ t = microAdv Config.block s

/-- A micro-operation of ADV that is enabled under a further condition is the one of the phase. -/
theorem eq_microAdv_of_whenEnabled {ph : AdvPhase} {further : Bool} {after : State → State} {s t : State}
    (selects : s.aph = ph → microAdv Config.block s = after s)
    (h : whenEnabled (advEnabled ph s && further) (after s) = .next t) :
    advEnabled ph s = true ∧ t = microAdv Config.block s := by
  obtain ⟨enabled, rfl⟩ := whenEnabled_eq_next.mp h
  have enabled : advEnabled ph s = true := (Bool.and_eq_true_iff.mp enabled).1
  obtain ⟨-, -, phase, -⟩ := advEnabled_iff.mp enabled
  exact ⟨enabled, (selects phase).symm⟩

theorem microAdv_of_a2 {s : State} (h : s.aph = .a2) : microAdv Config.block s = microA2 Config.block s := by
  simp [microAdv, h]

theorem microAdv_of_a3 {s : State} (h : s.aph = .a3) : microAdv Config.block s = microA3 Config.block s := by
  simp [microAdv, h]

theorem runsMicroAdv_of_execD3Row {i : Instr} {inRow : Bool} {f : Nibble} (h : ∀ s, exec i s = execD3Row inRow f s) :
    RunsMicroAdv i .a2 := fun s t completes => by
  rw [h, execD3Row, Bool.and_assoc, Bool.and_assoc] at completes
  exact eq_microAdv_of_whenEnabled microAdv_of_a2 completes

theorem runsMicroAdv_of_execEncRow {i : Instr} {inRow : Bool} {d : Nibble} (h : ∀ s, exec i s = execEncRow inRow d s) :
    RunsMicroAdv i .a3 := fun s t completes => by
  rw [h, execEncRow, Bool.and_assoc, Bool.and_assoc] at completes
  exact eq_microAdv_of_whenEnabled microAdv_of_a3 completes

theorem runsWholeAdv_of_execSubroutine {i : Instr} {selected : State → Bool}
    (h : ∀ s, exec i s = execSubroutine (selected s) s) : RunsWholeAdv i := fun s t completes => by
  rw [h, execSubroutine, whenEnabled_eq_next, Bool.and_eq_true] at completes
  exact ⟨completes.1.1, completes.2⟩

/-- Which operation a row runs, whatever the state. -/
inductive RowKind : Instr → Prop where
  | nop : RowKind .nop
  | por : RowKind .por
  | start : RowKind .start
  | rst : RowKind .rst
  | stop : RowKind .stop
  | tick : RowKind .tick
  | tickRow (ph : TickPhase) : RowKind (tickRow ph)
  | wholeAdv {i : Instr} (runs : RunsWholeAdv i) : RowKind i
  | microAdv {i : Instr} (ph : AdvPhase) (runs : RunsMicroAdv i ph) : RowKind i

theorem runsMicroAdv_advRow (ph : AdvPhase) : RunsMicroAdv (advRow ph) ph := fun _ _ => exec_advRow_eq_next.mp

theorem rowKind (i : Instr) : RowKind i := by
  cases i
  case nop => exact .nop
  case por => exact .por
  case start => exact .start
  case rst => exact .rst
  case stop => exact .stop
  case tick => exact .tick
  case tickK0 => exact .tickRow .idle
  case tickK1 => exact .tickRow .k1
  case tickK2 => exact .tickRow .k2
  case tickK3 => exact .tickRow .k3
  case tickK4 => exact .tickRow .k4
  case tickK5 => exact .tickRow .k5
  case tickK6 => exact .tickRow .k6
  case tickK7 => exact .tickRow .k7
  case tickK8 => exact .tickRow .k8
  case adv => exact .wholeAdv fun _ _ => whenEnabled_eq_next.mp
  case advD0 | advD1 | advD2 | advD3 | advColon | advClamp5 | advClamp67 =>
    exact .wholeAdv (runsWholeAdv_of_execSubroutine fun _ => rfl)
  case advA0 => exact .microAdv .idle (runsMicroAdv_advRow .idle)
  case advA1 => exact .microAdv .a1 (runsMicroAdv_advRow .a1)
  case advA2 => exact .microAdv .a2 (runsMicroAdv_advRow .a2)
  case advA3 => exact .microAdv .a3 (runsMicroAdv_advRow .a3)
  case advA4 => exact .microAdv .a4 (runsMicroAdv_advRow .a4)
  case advA5 => exact .microAdv .a5 (runsMicroAdv_advRow .a5)
  case d3decGen07 | d3dec8 | d3dec9 | d3decGenAB | d3decGenCD | d3decGenE | d3decF =>
    exact .microAdv .a2 (runsMicroAdv_of_execD3Row fun _ => rfl)
  all_goals exact .microAdv .a3 (runsMicroAdv_of_execEncRow fun _ => rfl)

/-! ## The counter reads the counter alone -/

/-- Two states agree on what TICK and the buttons read and write (rule R58). -/
structure AgreeCounter (s t : State) : Prop extends AgreePastGate s t where
  run : s.run = t.run

theorem agreeCounter_iff {s t : State} : AgreeCounter s t ↔ s.counterPart = t.counterPart := by
  simp only [State.counterPart, Prod.mk.injEq]
  constructor
  · rintro ⟨⟨ev, sub, sec, tph, c1, c2⟩, run⟩
    exact ⟨ev, run, sub, sec, tph, c1, c2⟩
  · rintro ⟨ev, run, sub, sec, tph, c1, c2⟩
    exact ⟨⟨ev, sub, sec, tph, c1, c2⟩, run⟩

section
variable {s t : State} (h : AgreeCounter s t)
include h

theorem AgreeCounter.microK0 : AgreeCounter (microK0 s) (microK0 t) := by
  unfold Machine.microK0
  rw [h.run]
  split
  · exact ⟨⟨h.ev, h.sub, h.sec, rfl, h.c1, h.c2⟩, h.run⟩
  · exact ⟨⟨h.ev, h.sub, h.sec, rfl, rfl, rfl⟩, h.run⟩

theorem AgreeCounter.terminalTest_run (c : Config) (made : Bool) (next : TickPhase) :
    (terminalTest c made next s).run = (terminalTest c made next t).run := by
  unfold Machine.terminalTest
  rw [h.ev]
  split
  · rfl
  · exact h.run

theorem AgreeCounter.microTick (c : Config) : AgreeCounter (microTick c s) (microTick c t) := by
  by_cases idle : s.tph = .idle
  · rw [microTick_of_idle c idle, microTick_of_idle c (h.tph ▸ idle)]
    exact h.microK0
  refine ⟨h.toAgreePastGate.microTick c idle, ?_⟩
  unfold Machine.microTick
  rw [← h.tph]
  cases hph : s.tph with
  | idle => exact absurd hph idle
  | k1 | k3 => exact h.terminalTest_run c true _
  | k2 => exact h.run
  | k4 => rw [microK4_run, microK4_run, h.run]
  | k5 =>
    show (microK5 c s).run = (microK5 c t).run
    unfold microK5
    rw [h.c1]
    exact h.terminalTest_run c _ _
  | k6 => rw [microK6_run, microK6_run, h.run]
  | k7 =>
    show (microK7 c s).run = (microK7 c t).run
    unfold microK7
    rw [h.c2]
    exact h.terminalTest_run c _ _
  | k8 => rw [microK8_run, microK8_run, h.run]

end

theorem AgreeCounter.restOfTick {s t : State} (h : AgreeCounter s t) (c : Config) (n : Nat) :
    AgreeCounter (restOfTick c n s) (restOfTick c n t) := by
  induction n generalizing s t with
  | zero => exact h
  | succ n ih =>
    by_cases idle : s.tph = .idle
    · rwa [restOfTick_idle c _ idle, restOfTick_idle c _ (h.tph ▸ idle)]
    · rw [restOfTick_succ_of_tph_ne_idle c n idle, restOfTick_succ_of_tph_ne_idle c n (h.tph ▸ idle)]
      exact ih (h.microTick c)

theorem AgreeCounter.wholeTick {s t : State} (h : AgreeCounter s t) (c : Config) :
    AgreeCounter (wholeTick c s) (wholeTick c t) :=
  h.microK0.restOfTick c 8

/-! ## ADV reads the display and EV alone -/

/-- Two states agree on what ADV reads: the display's registers, EV and the number of the next draw. -/
structure AgreeDisplay (s t : State) : Prop where
  display : s.displayPart = t.displayPart
  ev : s.ev = t.ev
  draws : s.draws = t.draws

theorem AgreeDisplay.fields {s t : State} (h : AgreeDisplay s t) :
    s.cur = t.cur ∧ s.seg = t.seg ∧ s.dsel = t.dsel ∧ s.aph = t.aph ∧ s.p = t.p ∧ s.d = t.d := by
  simpa [State.displayPart] using h.display

section
variable {s t : State} (h : AgreeDisplay s t)
include h

theorem AgreeDisplay.extract : extract Config.block s = extract Config.block t := by
  obtain ⟨-, -, -, -, p, d⟩ := h.fields
  unfold Machine.extract
  rw [p, d, h.ev]

theorem AgreeDisplay.microA3 : AgreeDisplay (microA3 Config.block s) (microA3 Config.block t) := by
  obtain ⟨cur, -, dsel, -, p, d⟩ := h.fields
  by_cases colon : s.p = .colon
  · rw [microA3_of_colon colon, microA3_of_colon (p ▸ colon)]
    exact ⟨by simp [State.displayPart, cur, dsel, p, d], h.ev, h.draws⟩
  · rw [microA3_of_digit colon, microA3_of_digit (p ▸ colon)]
    exact ⟨by simp [State.displayPart, cur, dsel, p, d, h.draws], h.ev, by simp [d, h.draws]⟩

theorem AgreeDisplay.microAdv : AgreeDisplay (microAdv Config.block s) (microAdv Config.block t) := by
  obtain ⟨cur, seg, dsel, aph, p, d⟩ := h.fields
  unfold Machine.microAdv
  rw [← aph]
  cases s.aph with
  | idle => exact ⟨by simp [State.displayPart, microA0, cur, seg, dsel, d], h.ev, h.draws⟩
  | a1 => exact ⟨by simp [State.displayPart, microA1, cur, seg, p, d], h.ev, h.draws⟩
  | a2 => exact ⟨by simp [State.displayPart, microA2, cur, seg, dsel, p, h.extract], h.ev, h.draws⟩
  | a3 => exact h.microA3
  | a4 => exact ⟨by simp [State.displayPart, microA4, cur, seg, p, d], h.ev, h.draws⟩
  | a5 => exact ⟨by simp [State.displayPart, microA5, seg, dsel, p, d], h.ev, h.draws⟩

theorem AgreeDisplay.wholeAdv (idle : s.aph = .idle) :
    AgreeDisplay (wholeAdv Config.block s) (wholeAdv Config.block t) := by
  obtain ⟨-, -, -, aph, -⟩ := h.fields
  rw [wholeAdv_eq_microAdv _ idle, wholeAdv_eq_microAdv _ (aph ▸ idle)]
  exact h.microAdv.microAdv.microAdv.microAdv.microAdv.microAdv

end

/-- A row takes states that agree on the counter to states that agree on it (rule R58). -/
theorem exec_counterPart_congr {i : Instr} {s1 s2 t1 t2 : State} (h1 : exec i s1 = .next t1) (h2 : exec i s2 = .next t2)
    (counter : s1.counterPart = s2.counterPart) : t1.counterPart = t2.counterPart := by
  have agree : AgreeCounter s1 s2 := agreeCounter_iff.mpr counter
  refine agreeCounter_iff.mp ?_
  cases rowKind i with
  | nop =>
    obtain rfl : s1 = t1 := Host.Outcome.next.inj h1
    obtain rfl : s2 = t2 := Host.Outcome.next.inj h2
    exact agree
  | por =>
    obtain rfl : powerOnReset s1 = t1 := Host.Outcome.next.inj h1
    obtain rfl : powerOnReset s2 = t2 := Host.Outcome.next.inj h2
    exact agreeCounter_iff.mpr rfl
  | start =>
    obtain ⟨-, rfl⟩ := whenEnabled_eq_next.mp h1
    obtain ⟨-, rfl⟩ := whenEnabled_eq_next.mp h2
    exact ⟨⟨agree.ev, agree.sub, agree.sec, agree.tph, agree.c1, agree.c2⟩, rfl⟩
  | rst =>
    obtain ⟨-, rfl⟩ := whenEnabled_eq_next.mp h1
    obtain ⟨-, rfl⟩ := whenEnabled_eq_next.mp h2
    exact ⟨⟨rfl, agree.sub, agree.sec, agree.tph, agree.c1, agree.c2⟩, rfl⟩
  | stop =>
    obtain ⟨-, rfl⟩ := whenEnabled_eq_next.mp h1
    obtain ⟨-, rfl⟩ := whenEnabled_eq_next.mp h2
    exact ⟨⟨agree.ev, agree.sub, agree.sec, agree.tph, agree.c1, agree.c2⟩, rfl⟩
  | tick =>
    obtain ⟨-, rfl⟩ := whenEnabled_eq_next.mp h1
    obtain ⟨-, rfl⟩ := whenEnabled_eq_next.mp h2
    exact agree.wholeTick _
  | tickRow ph =>
    obtain ⟨-, rfl⟩ := exec_tickRow_eq_next.mp h1
    obtain ⟨-, rfl⟩ := exec_tickRow_eq_next.mp h2
    exact agree.microTick _
  | wholeAdv runs =>
    obtain ⟨-, rfl⟩ := runs _ _ h1
    obtain ⟨-, rfl⟩ := runs _ _ h2
    exact agreeCounter_iff.mpr
      ((wholeAdv_frame _ s1).counter.trans (counter.trans (wholeAdv_frame _ s2).counter.symm))
  | microAdv ph runs =>
    obtain ⟨-, rfl⟩ := runs _ _ h1
    obtain ⟨-, rfl⟩ := runs _ _ h2
    exact agreeCounter_iff.mpr
      ((microAdv_frame _ s1).counter.trans (counter.trans (microAdv_frame _ s2).counter.symm))

/-- A row takes states that agree on the display, EV and the draw number to states that agree on the display
(rule R126). -/
theorem exec_displayPart_congr {i : Instr} {s1 s2 t1 t2 : State} (h1 : exec i s1 = .next t1) (h2 : exec i s2 = .next t2)
    (agree : AgreeDisplay s1 s2) : t1.displayPart = t2.displayPart := by
  have display := agree.display
  cases rowKind i with
  | nop =>
    obtain rfl : s1 = t1 := Host.Outcome.next.inj h1
    obtain rfl : s2 = t2 := Host.Outcome.next.inj h2
    exact display
  | por =>
    obtain rfl : powerOnReset s1 = t1 := Host.Outcome.next.inj h1
    obtain rfl : powerOnReset s2 = t2 := Host.Outcome.next.inj h2
    rfl
  | start | rst | stop =>
    obtain ⟨-, rfl⟩ := whenEnabled_eq_next.mp h1
    obtain ⟨-, rfl⟩ := whenEnabled_eq_next.mp h2
    exact display
  | tick =>
    obtain ⟨-, rfl⟩ := whenEnabled_eq_next.mp h1
    obtain ⟨-, rfl⟩ := whenEnabled_eq_next.mp h2
    rw [wholeTick_displayPart, wholeTick_displayPart, display]
  | tickRow ph =>
    obtain ⟨-, rfl⟩ := exec_tickRow_eq_next.mp h1
    obtain ⟨-, rfl⟩ := exec_tickRow_eq_next.mp h2
    rw [microTick_displayPart, microTick_displayPart, display]
  | wholeAdv runs =>
    obtain ⟨enabled, rfl⟩ := runs _ _ h1
    obtain ⟨-, rfl⟩ := runs _ _ h2
    obtain ⟨-, -, idle, -⟩ := advEnabled_iff.mp enabled
    exact (agree.wholeAdv idle).display
  | microAdv ph runs =>
    obtain ⟨-, rfl⟩ := runs _ _ h1
    obtain ⟨-, rfl⟩ := runs _ _ h2
    exact agree.microAdv.display

/-- Settles O54: row by row, the counter's rows read the counter alone and leave the display, and the rows of ADV read
the display, EV and the draw number alone and leave the counter. -/
theorem counterAndDisplayShareOnlyTheElapsedValue : Obligations.CounterAndDisplayShareOnlyTheElapsedValue :=
  fun _ _ _ _ _ h1 h2 =>
    ⟨exec_counterPart_congr h1 h2, fun display ev draws => exec_displayPart_congr h1 h2 ⟨display, ev, draws⟩⟩

end Sys2Proof.Machine

/-! PROOFS. A TICK leaves a suspended ADV as it is (spec/60_exceptions.md rule R175), and who writes and who reads RUN
(spec/10_state.md rule R23). -/

namespace Sys2Proof.Machine

/-! ## While a TICK is owed -/

/-- While a TICK is in progress or pending no micro-operation of ADV is enabled (rule R59). -/
theorem not_advEnabled_of_tick {s : State} (busy : s.tph ≠ .idle ∨ s.pending .slow = true) (ph : AdvPhase) :
    advEnabled ph s ≠ true := fun enabled => by
  obtain ⟨idle, calm, -, -⟩ := advEnabled_iff.mp enabled
  rcases busy with busy | busy
  · exact busy idle
  · rw [calm] at busy
    cases busy

/-- Settles O53: no ADV is enabled then, and no row of TICK, button or NOP writes the display. -/
theorem tickSuspendsAdvWithoutDisturbingIt : Obligations.TickSuspendsAdvWithoutDisturbingIt := by
  intro i s t busy notPor h
  cases rowKind i with
  | nop =>
    obtain rfl : s = t := Host.Outcome.next.inj h
    rfl
  | por => exact absurd rfl notPor
  | start | rst | stop =>
    obtain ⟨-, rfl⟩ := whenEnabled_eq_next.mp h
    rfl
  | tick =>
    obtain ⟨-, rfl⟩ := whenEnabled_eq_next.mp h
    exact wholeTick_displayPart _ s
  | tickRow ph =>
    obtain ⟨-, rfl⟩ := exec_tickRow_eq_next.mp h
    exact microTick_displayPart _ s
  | wholeAdv runs => exact absurd (runs _ _ h).1 (not_advEnabled_of_tick busy _)
  | microAdv ph runs => exact absurd (runs _ _ h).1 (not_advEnabled_of_tick busy _)

/-! ## Who writes RUN -/

/-- A terminal test leaves RUN, or clears it at TERMINAL. -/
theorem terminalTest_run (c : Config) (made : Bool) (next : TickPhase) (s : State) :
    (terminalTest c made next s).run = s.run ∨
    ((terminalTest c made next s).run = false ∧ (terminalTest c made next s).ev = c.terminal ∧
      (terminalTest c made next s).tph = .idle) := by
  rcases terminalTest_cases c made next s with ⟨-, terminal, stop⟩ | ⟨-, goOn⟩
  · rw [stop]
    exact .inr ⟨rfl, terminal, rfl⟩
  · rw [goOn]
    exact .inl rfl

/-- A micro-operation of TICK leaves RUN, or is a terminal test that clears it at TERMINAL. -/
theorem microTick_run (c : Config) (s : State) :
    (microTick c s).run = s.run ∨
    ((microTick c s).run = false ∧ (microTick c s).ev = c.terminal ∧ (microTick c s).tph = .idle ∧
      (s.tph = .k1 ∨ s.tph = .k3 ∨ s.tph = .k5 ∨ s.tph = .k7)) := by
  unfold microTick
  cases h : s.tph with
  | idle => exact .inl (microK0_run s)
  | k2 => exact .inl rfl
  | k4 => exact .inl (microK4_run c s)
  | k6 => exact .inl (microK6_run c s)
  | k8 => exact .inl (microK8_run c s)
  | k1 | k3 | k5 | k7 =>
    exact (terminalTest_run c _ _ s).imp_right fun ⟨stopped, terminal, ended⟩ => ⟨stopped, terminal, ended, by simp⟩

/-- A TICK that started with RUN = run has left RUN, or has auto-stopped at TERMINAL. -/
def State.keptOrStopped (c : Config) (run : Bool) (s : State) : Prop :=
  s.run = run ∨ (s.run = false ∧ s.ev = c.terminal ∧ s.tph = .idle)

theorem microTick_keptOrStopped (c : Config) {run : Bool} {s : State} (inProgress : s.tph ≠ .idle)
    (h : s.keptOrStopped c run) : (microTick c s).keptOrStopped c run := by
  rcases h with kept | ⟨-, -, ended⟩
  · rcases microTick_run c s with same | ⟨stopped, terminal, ended, -⟩
    · exact .inl (same.trans kept)
    · exact .inr ⟨stopped, terminal, ended⟩
  · exact absurd ended inProgress

theorem wholeTick_keptOrStopped (c : Config) (s : State) : (wholeTick c s).keptOrStopped c s.run :=
  restOfTick_keeps c (P := State.keptOrStopped c s.run) (fun _ => microTick_keptOrStopped c) 8 (.inl (microK0_run s))

/-- Where a row changes RUN: START sets it; STOP, RST, POR and an auto-stop at TERMINAL clear it (rule R23). -/
theorem exec_writes_run {i : Instr} {s t : State} (h : exec i s = .next t) (changed : t.run ≠ s.run) :
    (t.run = true ∧ i = .start) ∨
    (t.run = false ∧ (i = .stop ∨ i = .rst ∨ i = .por ∨
      (t.ev = 0x9990 ∧ i ∈ ([.tick, .tickK1, .tickK3, .tickK5, .tickK7] : List Instr)))) := by
  cases rowKind i with
  | nop =>
    obtain rfl : s = t := Host.Outcome.next.inj h
    exact absurd rfl changed
  | por =>
    obtain rfl : powerOnReset s = t := Host.Outcome.next.inj h
    exact .inr ⟨rfl, by simp⟩
  | start =>
    obtain ⟨-, rfl⟩ := whenEnabled_eq_next.mp h
    exact .inl ⟨rfl, rfl⟩
  | rst | stop =>
    obtain ⟨-, rfl⟩ := whenEnabled_eq_next.mp h
    exact .inr ⟨rfl, by simp⟩
  | tick =>
    obtain ⟨-, rfl⟩ := whenEnabled_eq_next.mp h
    rcases wholeTick_keptOrStopped Config.block s with kept | ⟨stopped, terminal, -⟩
    · exact absurd kept changed
    · exact .inr ⟨stopped, .inr (.inr (.inr ⟨terminal, by simp⟩))⟩
  | tickRow ph =>
    obtain ⟨enabled, rfl⟩ := exec_tickRow_eq_next.mp h
    rcases microTick_run Config.block s with kept | ⟨stopped, terminal, -, phase⟩
    · exact absurd kept changed
    · rw [(tickEnabled_iff.mp enabled).1] at phase
      refine .inr ⟨stopped, .inr (.inr (.inr ⟨terminal, ?_⟩))⟩
      rcases phase with rfl | rfl | rfl | rfl <;> simp [tickRow]
  | wholeAdv runs =>
    obtain ⟨-, rfl⟩ := runs _ _ h
    exact absurd (wholeAdv_frame _ s).run changed
  | microAdv ph runs =>
    obtain ⟨-, rfl⟩ := runs _ _ h
    exact absurd (microAdv_frame _ s).run changed

/-! ## Who reads RUN -/

theorem terminalTest_of_run (c : Config) (made : Bool) (next : TickPhase) (s : State) (b : Bool) :
    { terminalTest c made next { s with run := b } with run := (terminalTest c made next s).run } =
      terminalTest c made next s := by
  rcases terminalTest_cases c made next s with ⟨hmade, terminal, stop⟩ | ⟨goesOn, goOn⟩
  · rw [stop, terminalTest_of_terminal next hmade (s := { s with run := b }) terminal]
    rfl
  · rcases terminalTest_cases c made next { s with run := b } with ⟨hmade, terminal, -⟩ | ⟨-, goOn'⟩
    · exact absurd ⟨hmade, terminal⟩ goesOn
    · rw [goOn, goOn']
      rfl

/-- Past the gate K0 a TICK does not read RUN. -/
theorem microTick_of_run (c : Config) {s : State} (inProgress : s.tph ≠ .idle) (b : Bool) :
    { microTick c { s with run := b } with run := (microTick c s).run } = microTick c s := by
  unfold microTick
  cases h : s.tph with
  | idle => exact absurd h inProgress
  | k1 | k3 | k5 | k7 => exact terminalTest_of_run c _ _ s b
  | k2 => rfl
  | k4 =>
    simp only [microK4]
    split <;> rfl
  | k6 =>
    simp only [microK6]
    split <;> rfl
  | k8 =>
    simp only [microK8]
    split <;> rfl

/-- The state with other values of RUN and of the number of the next choice. -/
def State.steered (s : State) (b : Bool) (n : Nat) : State := { s with run := b, choices := n }

theorem microA3_steered (s : State) (b : Bool) (n : Nat) :
    microA3 Config.block (s.steered b n) = (microA3 Config.block s).steered b n := by
  by_cases colon : s.p = .colon
  · rw [microA3_of_colon colon, microA3_of_colon (s := s.steered b n) colon]
    rfl
  · rw [microA3_of_digit colon, microA3_of_digit (s := s.steered b n) colon]
    rfl

/-- ADV neither reads nor writes RUN and the number of the next choice. -/
theorem microAdv_steered (s : State) (b : Bool) (n : Nat) :
    microAdv Config.block (s.steered b n) = (microAdv Config.block s).steered b n := by
  unfold microAdv
  cases h : s.aph with
  | a3 =>
    rw [show (s.steered b n).aph = .a3 from h]
    exact microA3_steered s b n
  | idle | a1 | a2 | a4 | a5 =>
    rw [show (s.steered b n).aph = _ from h]
    rfl

theorem wholeAdv_steered {s : State} (idle : s.aph = .idle) (b : Bool) (n : Nat) :
    wholeAdv Config.block (s.steered b n) = (wholeAdv Config.block s).steered b n := by
  rw [wholeAdv_eq_microAdv _ idle, wholeAdv_eq_microAdv _ (s := s.steered b n) idle]
  simp only [microAdv_steered]

theorem State.steered_run_cancel {s t : State} (h : t.choices = s.choices) (b : Bool) :
    { t.steered b s.choices with run := t.run } = t := by
  rw [← h]
  rfl

/-- Two completions of a row but K0 and the whole TICK, from states that differ in RUN alone, differ in RUN alone
(rule R23). -/
theorem exec_of_run {i : Instr} {s t u : State} {b : Bool} (notK0 : i ≠ .tickK0) (notTick : i ≠ .tick)
    (h : exec i s = .next t) (h' : exec i { s with run := b } = .next u) : { u with run := t.run } = t := by
  cases rowKind i with
  | nop =>
    obtain rfl : s = t := Host.Outcome.next.inj h
    obtain rfl : { s with run := b } = u := Host.Outcome.next.inj h'
    rfl
  | por =>
    obtain rfl : powerOnReset s = t := Host.Outcome.next.inj h
    obtain rfl : powerOnReset { s with run := b } = u := Host.Outcome.next.inj h'
    rfl
  | start | rst | stop =>
    obtain ⟨-, rfl⟩ := whenEnabled_eq_next.mp h
    obtain ⟨-, rfl⟩ := whenEnabled_eq_next.mp h'
    rfl
  | tick => exact absurd rfl notTick
  | tickRow ph =>
    obtain ⟨enabled, rfl⟩ := exec_tickRow_eq_next.mp h
    obtain ⟨-, rfl⟩ := exec_tickRow_eq_next.mp h'
    have inProgress : s.tph ≠ .idle := fun idle =>
      notK0 (tickRow_eq_tickK0_iff.mpr ((tickEnabled_iff.mp enabled).1 ▸ idle))
    exact microTick_of_run _ inProgress b
  | wholeAdv runs =>
    obtain ⟨enabled, rfl⟩ := runs _ _ h
    obtain ⟨-, rfl⟩ := runs _ _ h'
    obtain ⟨-, -, idle, -⟩ := advEnabled_iff.mp enabled
    rw [show { s with run := b } = s.steered b s.choices from rfl, wholeAdv_steered idle]
    exact State.steered_run_cancel (wholeAdv_frame _ s).choices b
  | microAdv ph runs =>
    obtain ⟨-, rfl⟩ := runs _ _ h
    obtain ⟨-, rfl⟩ := runs _ _ h'
    rw [show { s with run := b } = s.steered b s.choices from rfl, microAdv_steered]
    exact State.steered_run_cancel (microAdv_frame _ s).choices b

/-- Settles O43: the writers row by row, and past K0 no row reads RUN. -/
theorem runIsWrittenByItsWritersOnly : Obligations.RunIsWrittenByItsWritersOnly :=
  ⟨fun _ _ _ => exec_writes_run, fun _ _ _ _ _ => exec_of_run⟩

end Sys2Proof.Machine

/-! PROOFS. The enabled steps, where a row that is one step completes, and the two deterministic sequencers
(spec/60_exceptions.md section 5). -/

namespace Sys2Proof.Machine

/-! ## What is owed, and what is enabled -/

/-- A TICK is owed: one is in progress or pending. -/
def State.owesTick (s : State) : Prop := s.tph ≠ .idle ∨ s.pending .slow = true

/-- An ADV is owed: one is in progress or pending. -/
def State.owesAdv (s : State) : Prop := s.aph ≠ .idle ∨ s.pending .fast = true

theorem tickEnabled_tph {s : State} : tickEnabled s.tph s = true ↔ s.owesTick := by
  rw [tickEnabled_iff, and_iff_right rfl, imp_iff_not_or]
  rfl

theorem advEnabled_aph {s : State} : advEnabled s.aph s = true ↔ ¬ s.owesTick ∧ s.owesAdv := by
  simp [advEnabled_iff, State.owesTick, State.owesAdv, imp_iff_not_or, and_assoc]

theorem buttonEnabled_iff {c : Config} {r : Source} {s : State} :
    buttonEnabled c r s = true ↔ s.pending r = true ∧ (c.preempt = true ∨ (¬ s.owesTick ∧ ¬ s.owesAdv)) := by
  simp only [buttonEnabled, btnOk, State.owesTick, State.owesAdv, Bool.and_eq_true, Bool.or_eq_true, beq_iff_eq,
    Bool.not_eq_true', not_or, not_not, Bool.not_eq_true]
  tauto

/-- The row of a button, with its source. -/
inductive IsButton : Source → Instr → Prop where
  | start : IsButton .start .start
  | rst : IsButton .rst .rst
  | stop : IsButton .stop .stop

theorem isButton_iff {r : Source} {i : Instr} :
    IsButton r i ↔ (r = .start ∧ i = .start) ∨ (r = .rst ∧ i = .rst) ∨ (r = .stop ∧ i = .stop) := by
  constructor
  · intro h
    cases h <;> simp
  · rintro (⟨rfl, rfl⟩ | ⟨rfl, rfl⟩ | ⟨rfl, rfl⟩)
    exacts [.start, .rst, .stop]

theorem mem_buttonStep {c : Config} {r : Source} {i j : Instr} {s : State} :
    i ∈ buttonStep c r j s ↔ i = j ∧ buttonEnabled c r s = true := by
  simp [buttonStep, and_comm]

theorem mem_tickSteps {i : Instr} {s : State} : i ∈ tickSteps s ↔ i = tickRow s.tph ∧ s.owesTick := by
  simp [tickSteps, tickEnabled_tph, and_comm]

theorem mem_advSteps {i : Instr} {s : State} : i ∈ advSteps s ↔ i = advRow s.aph ∧ ¬ s.owesTick ∧ s.owesAdv := by
  rw [← advEnabled_aph]
  simp [advSteps, and_comm]

/-- The enabled steps: the buttons that are pending and let in, and the TICK that is owed, else the ADV. -/
theorem mem_enabledSteps {c : Config} {i : Instr} {s : State} :
    i ∈ enabledSteps c s ↔
      (∃ r, IsButton r i ∧ buttonEnabled c r s = true) ∨ (i = tickRow s.tph ∧ s.owesTick) ∨
      (i = advRow s.aph ∧ ¬ s.owesTick ∧ s.owesAdv) := by
  simp only [enabledSteps, List.mem_append, mem_buttonStep, mem_tickSteps, mem_advSteps, or_assoc]
  constructor
  · rintro (⟨rfl, h⟩ | ⟨rfl, h⟩ | ⟨rfl, h⟩ | h)
    exacts [.inl ⟨_, .start, h⟩, .inl ⟨_, .rst, h⟩, .inl ⟨_, .stop, h⟩, .inr h]
  · rintro (⟨r, button, h⟩ | h)
    · cases button <;> simp [h]
    · exact .inr (.inr (.inr h))

/-- At most one of the lists of classes (T) and (A) is not empty, and it has one step. -/
theorem length_tickSteps_append_advSteps_le (s : State) : (tickSteps s ++ advSteps s).length ≤ 1 := by
  by_cases tick : s.owesTick
  · have noAdv : advSteps s = [] := List.eq_nil_iff_forall_not_mem.mpr fun i h => (mem_advSteps.mp h).2.1 tick
    rw [noAdv, List.append_nil, tickSteps]
    split <;> simp
  · have noTick : tickSteps s = [] := List.eq_nil_iff_forall_not_mem.mpr fun i h => tick (mem_tickSteps.mp h).2
    rw [noTick, List.nil_append, advSteps]
    split <;> simp

/-- Settles O44: the membership of enabledSteps, with the pending bits and the phases written out. -/
theorem enabledStepsAreThoseOfTheStepRelation : Obligations.EnabledStepsAreThoseOfTheStepRelation := by
  refine fun c s => ⟨fun i => ?_, length_tickSteps_append_advSteps_le s⟩
  have buttons : (∃ r, IsButton r i ∧ buttonEnabled c r s = true) ↔
      (i = .start ∧ s.pending .start = true ∨ i = .rst ∧ s.pending .rst = true ∨ i = .stop ∧ s.pending .stop = true) ∧
        (c.preempt = true ∨ (¬ s.owesTick ∧ ¬ s.owesAdv)) := by
    simp only [buttonEnabled_iff, isButton_iff]
    constructor
    · rintro ⟨r, ⟨rfl, rfl⟩ | ⟨rfl, rfl⟩ | ⟨rfl, rfl⟩, pending, allowed⟩ <;> simp [pending, allowed]
    · rintro ⟨⟨rfl, pending⟩ | ⟨rfl, pending⟩ | ⟨rfl, pending⟩, allowed⟩
      exacts [⟨.start, by simp, pending, allowed⟩, ⟨.rst, by simp, pending, allowed⟩,
        ⟨.stop, by simp, pending, allowed⟩]
  have tick : (i = tickRow s.tph ∧ s.owesTick) ↔
      (s.tph ≠ .idle ∧ i = tickRow s.tph) ∨ (s.tph = .idle ∧ s.pending .slow = true ∧ i = .tickK0) := by
    by_cases idle : s.tph = .idle <;> simp [State.owesTick, idle, tickRow, and_comm]
  have adv : (i = advRow s.aph ∧ ¬ s.owesTick ∧ s.owesAdv) ↔ (s.tph = .idle ∧ s.pending .slow = false ∧
      (s.aph ≠ .idle ∧ i = advRow s.aph ∨ s.aph = .idle ∧ s.pending .fast = true ∧ i = .advA0)) := by
    by_cases idle : s.aph = .idle <;> simp [State.owesTick, State.owesAdv, idle, advRow] <;> tauto
  have rest : (¬ s.owesTick ∧ ¬ s.owesAdv) ↔
      (s.tph = .idle ∧ s.aph = .idle ∧ s.pending .slow = false ∧ s.pending .fast = false) := by
    simp only [State.owesTick, State.owesAdv, not_or, not_not, Bool.not_eq_true]
    tauto
  rw [mem_enabledSteps, buttons, rest, tick, adv, or_assoc]
  exact Iff.rfl

end Sys2Proof.Machine

/-! PROOFS. Where a row that is one step of the block completes, the block's own step, and what a weakly fair run
serves (spec/60_exceptions.md section 5, spec/43_buttons.md). -/

namespace Sys2Proof.Machine

/-! ## The rows that are one step -/

/-- The operation of a button; the timers have none. -/
def microButton : Source → State → State
  | .start, s => microStart s
  | .rst, s => microRst Config.block s
  | .stop, s => microStop s
  | _, s => s

/-- A button row runs its operation where it is pending (rule R164). -/
theorem IsButton.exec_eq {r : Source} {i : Instr} (h : IsButton r i) (s : State) :
    exec i s = whenEnabled (s.pending r) (microButton r s) := by
  rw [← buttonEnabled_block]
  cases h <;> rfl

theorem IsButton.keeps {r : Source} {i : Instr} (h : IsButton r i) (s : State) :
    ∀ q, (microButton r s).pending q = (s.pending q && decide (q ≠ r)) := by
  have cases : (r = .start ∧ microButton r s = microStart s) ∨ (r = .rst ∧ microButton r s = microRst Config.block s) ∨
      (r = .stop ∧ microButton r s = microStop s) := by
    cases h <;> simp [microButton]
  obtain ⟨-, -, pending⟩ := button_keeps cases
  exact pending

theorem tickRow_inj {ph ph' : TickPhase} : tickRow ph = tickRow ph' ↔ ph = ph' := by
  cases ph <;> cases ph' <;> simp [tickRow]

theorem advRow_inj {ph ph' : AdvPhase} : advRow ph = advRow ph' ↔ ph = ph' := by
  cases ph <;> cases ph' <;> simp [advRow]

theorem tickRow_ne_advRow (ph : TickPhase) (ph' : AdvPhase) : tickRow ph ≠ advRow ph' := by
  cases ph <;> cases ph' <;> simp [tickRow, advRow]

theorem not_isButton_tickRow (r : Source) (ph : TickPhase) : ¬ IsButton r (tickRow ph) := by
  cases ph <;> exact nofun

theorem not_isButton_advRow (r : Source) (ph : AdvPhase) : ¬ IsButton r (advRow ph) := by
  cases ph <;> exact nofun

theorem IsButton.source_unique {r q : Source} {i : Instr} (h : IsButton r i) (h' : IsButton q i) : r = q := by
  cases h <;> cases h' <;> rfl

theorem IsButton.mem_enabledSteps {r : Source} {i : Instr} (h : IsButton r i) {s : State} :
    i ∈ enabledSteps Config.block s ↔ s.pending r = true := by
  rw [Machine.mem_enabledSteps, ← buttonEnabled_block]
  constructor
  · rintro (⟨q, button, enabled⟩ | ⟨rfl, -⟩ | ⟨rfl, -⟩)
    · exact h.source_unique button ▸ enabled
    · exact absurd h (not_isButton_tickRow _ _)
    · exact absurd h (not_isButton_advRow _ _)
  · exact fun enabled => .inl ⟨r, h, enabled⟩

theorem tickRow_mem_enabledSteps {c : Config} {ph : TickPhase} {s : State} :
    tickRow ph ∈ enabledSteps c s ↔ tickEnabled ph s = true := by
  rw [mem_enabledSteps]
  constructor
  · rintro (⟨q, button, -⟩ | ⟨same, owed⟩ | ⟨same, -⟩)
    · exact absurd button (not_isButton_tickRow _ _)
    · rw [tickRow_inj.mp same]
      exact tickEnabled_tph.mpr owed
    · exact absurd same (tickRow_ne_advRow _ _)
  · intro enabled
    obtain rfl : s.tph = ph := (tickEnabled_iff.mp enabled).1
    exact .inr (.inl ⟨rfl, tickEnabled_tph.mp enabled⟩)

theorem advRow_mem_enabledSteps {c : Config} {ph : AdvPhase} {s : State} :
    advRow ph ∈ enabledSteps c s ↔ advEnabled ph s = true := by
  rw [mem_enabledSteps]
  constructor
  · rintro (⟨q, button, -⟩ | ⟨same, -⟩ | ⟨same, owed⟩)
    · exact absurd button (not_isButton_advRow _ _)
    · exact absurd same.symm (tickRow_ne_advRow _ _)
    · rw [advRow_inj.mp same]
      exact advEnabled_aph.mpr owed
  · intro enabled
    obtain ⟨-, -, rfl, -⟩ := advEnabled_iff.mp enabled
    exact .inr (.inr ⟨rfl, advEnabled_aph.mp enabled⟩)

/-! ## The number of the next free choice is nothing a step looks at -/

theorem terminalTest_of_choices (c : Config) (made : Bool) (next : TickPhase) (s : State) (n : Nat) :
    terminalTest c made next { s with choices := n } = { terminalTest c made next s with choices := n } := by
  simp only [terminalTest]
  split <;> rfl

theorem microTick_of_choices (c : Config) (s : State) (n : Nat) :
    microTick c { s with choices := n } = { microTick c s with choices := n } := by
  unfold microTick
  cases h : s.tph with
  | idle =>
    simp only [microK0]
    split <;> rfl
  | k1 | k3 | k5 | k7 => exact terminalTest_of_choices c _ _ s n
  | k2 => rfl
  | k4 =>
    simp only [microK4]
    split <;> rfl
  | k6 =>
    simp only [microK6]
    split <;> rfl
  | k8 =>
    simp only [microK8]
    split <;> rfl

theorem IsButton.of_choices {r : Source} {i : Instr} (h : IsButton r i) (s : State) (n : Nat) :
    microButton r { s with choices := n } = { microButton r s with choices := n } := by
  cases h <;> rfl

theorem microAdv_of_choices (s : State) (n : Nat) :
    microAdv Config.block { s with choices := n } = { microAdv Config.block s with choices := n } := by
  refine (microAdv_steered s s.run n).trans ?_
  rw [← (microAdv_frame Config.block s).run]
  rfl

/-! ## The shape of a step row -/

/-- A row that is one step of the block: it has its effect where its guard holds, and it is enabled there. -/
structure StepRow (i : Instr) (guard : State → Bool) (effect : State → State) : Prop where
  exec_eq : ∀ s, exec i s = whenEnabled (guard s) (effect s)
  mem_enabledSteps : ∀ s, i ∈ enabledSteps Config.block s ↔ guard s = true
  of_choices : ∀ s n, effect { s with choices := n } = { effect s with choices := n }

theorem IsButton.stepRow {r : Source} {i : Instr} (h : IsButton r i) :
    StepRow i (State.pending · r) (microButton r) :=
  ⟨h.exec_eq, fun _ => h.mem_enabledSteps, h.of_choices⟩

theorem stepRow_tickRow (ph : TickPhase) : StepRow (tickRow ph) (tickEnabled ph) (microTick Config.block) :=
  ⟨exec_tickRow ph, fun _ => tickRow_mem_enabledSteps, microTick_of_choices _⟩

theorem stepRow_advRow (ph : AdvPhase) : StepRow (advRow ph) (advEnabled ph) (microAdv Config.block) :=
  ⟨exec_advRow ph, fun _ => advRow_mem_enabledSteps, microAdv_of_choices⟩

theorem stepRow_of_mem_enabledSteps {c : Config} {i : Instr} {s : State} (h : i ∈ enabledSteps c s) :
    ∃ guard effect, StepRow i guard effect := by
  rcases mem_enabledSteps.mp h with ⟨r, button, -⟩ | ⟨rfl, -⟩ | ⟨rfl, -⟩
  exacts [⟨_, _, button.stepRow⟩, ⟨_, _, stepRow_tickRow _⟩, ⟨_, _, stepRow_advRow _⟩]

theorem stepRow_of_mem_stepRows {i : Instr} (h : i ∈ stepRows) : ∃ guard effect, StepRow i guard effect := by
  rcases List.mem_append.mp h with h | adv
  · rcases List.mem_append.mp h with button | tick
    · simp only [List.mem_cons, List.not_mem_nil, or_false] at button
      rcases button with rfl | rfl | rfl
      exacts [⟨_, _, IsButton.start.stepRow⟩, ⟨_, _, IsButton.rst.stepRow⟩, ⟨_, _, IsButton.stop.stepRow⟩]
    · rcases mem_tickRows.mp (List.mem_of_mem_tail tick) with rfl | ⟨ph, rfl⟩
      · exact absurd tick (by decide)
      · exact ⟨_, _, stepRow_tickRow ph⟩
  · obtain ⟨ph, rfl⟩ := mem_advMicroRows.mp adv
    exact ⟨_, _, stepRow_advRow ph⟩

/-- An enabled step completes. -/
theorem exec_of_mem_enabledSteps {i : Instr} {s : State} (h : i ∈ enabledSteps Config.block s) :
    ∃ t, exec i s = .next t := by
  obtain ⟨guard, effect, row⟩ := stepRow_of_mem_enabledSteps h
  exact ⟨effect s, by rw [row.exec_eq, (row.mem_enabledSteps s).mp h, whenEnabled_true]⟩

/-- Settles O45: a step row's guard is that of rule R185. -/
theorem stepRowsRunExactlyWhereEnabled : Obligations.StepRowsRunExactlyWhereEnabled := by
  intro i s h
  obtain ⟨guard, effect, row⟩ := stepRow_of_mem_stepRows h
  rw [row.mem_enabledSteps, row.exec_eq]
  cases guard s with
  | true => exact .inl ⟨rfl, _, rfl⟩
  | false => exact .inr ⟨nofun, rfl⟩

/-! ## The buttons -/

/-- Settles O40: with PREEMPT = true a button is enabled where it is pending. -/
theorem buttonsAreAlwaysLive : Obligations.ButtonsAreAlwaysLive := by
  have live : ∀ {r i} (s : State), IsButton r i → s.pending r = true →
      i ∈ enabledSteps Config.block s ∧ ∃ t, exec i s = .next t := fun s button pending =>
    ⟨button.mem_enabledSteps.mpr pending, exec_of_mem_enabledSteps (button.mem_enabledSteps.mpr pending)⟩
  exact fun s => ⟨live s .start, live s .rst, live s .stop⟩

/-- Settles O41: a button clears its own bit, which is its guard. -/
theorem oneRequestOneExecution : Obligations.OneRequestOneExecution := by
  intro r i s t hi h
  have button : IsButton r i := isButton_iff.mpr hi
  rw [button.exec_eq, whenEnabled_eq_next] at h
  obtain ⟨-, rfl⟩ := h
  have cleared : (microButton r s).pending r = false := by simp [button.keeps]
  refine ⟨cleared, fun q other => by simp [button.keeps, other], ?_, ?_⟩
  · rw [button.exec_eq, cleared, whenEnabled_false]
  · rw [button.mem_enabledSteps, cleared]
    exact nofun

/-! ## The block's own step -/

/-- Settles O46: a free choice is one of the enabled steps, and its number is nothing the step looks at. -/
theorem ownStepTakesAnEnabledStep : Obligations.OwnStepTakesAnEnabledStep := by
  intro s silent
  rw [step_of_empty silent]
  rcases freeStep_cases Config.block s with quiet | ⟨i, enabled, only⟩ | ⟨i, enabled, chosen⟩
  · exact .inl quiet
  · obtain ⟨t, ht⟩ := exec_of_mem_enabledSteps enabled
    exact .inr ⟨i, t, t, enabled, only.trans ht, ht, rfl⟩
  · obtain ⟨guard, effect, row⟩ := stepRow_of_mem_enabledSteps enabled
    have here : guard s = true := (row.mem_enabledSteps s).mp enabled
    have there : guard s.chosen = true := (row.mem_enabledSteps s.chosen).mp enabled
    refine .inr ⟨i, effect s.chosen, effect s, enabled, ?_, ?_, ?_⟩
    · rw [chosen, row.exec_eq, there, whenEnabled_true]
    · rw [row.exec_eq, here, whenEnabled_true]
    · rw [show s.chosen = { s with choices := s.choices + 1 } from rfl, row.of_choices]

/-! ## Every enabled step can be the next turn -/

theorem wf_of_mem_enabledSteps {c : Config} {i : Instr} {s : State} (h : i ∈ enabledSteps c s) : i.wf = true := by
  rcases mem_enabledSteps.mp h with ⟨r, button, -⟩ | ⟨rfl, -⟩ | ⟨rfl, -⟩
  · cases button <;> rfl
  · cases s.tph <;> rfl
  · cases s.aph <;> rfl

/-- A turn that presents the bits of a well-formed row runs it. -/
theorem step_of_encoded_turn {i : Instr} (wf : i.wf = true) (s : State) :
    step { s with agenda := .row i.row.format (encodeBits i) :: s.agenda } = exec i s := by
  rw [step_of_turn rfl, runTurn, runRow, decode_encodeBits wf]

/-! ## Weak fairness -/

theorem tickDebt_eq_zero_iff {s : State} : s.tickDebt = 0 ↔ ¬ s.owesTick := by
  simp [tickDebt_eq_zero, State.owesTick]

/-- Taking a row of TICK lowers the debt. -/
theorem tickDebt_lt_of_take {ph : TickPhase} {s t : State} (h : (Move.take (tickRow ph)).leads s t) :
    t.tickDebt < s.tickDebt := by
  obtain ⟨-, completes⟩ := h
  obtain ⟨enabled, rfl⟩ := exec_tickRow_eq_next.mp completes
  exact microTick_tickDebt ((tickEnabled_iff.mp enabled).1 ▸ enabled)

/-- The slow source raises nothing from the move n on. -/
def SlowSilentFrom (move : Nat → Move) (n : Nat) : Prop :=
  ∀ m, n ≤ m → ∀ v, move m = .raise v → v.getLsbD (pendBit .slow) = false

theorem SlowSilentFrom.mono {move : Nat → Move} {n m : Nat} (calm : SlowSilentFrom move n) (h : n ≤ m) :
    SlowSilentFrom move m := fun k hk => calm k (h.trans hk)

theorem exists_slowSilentFrom {move : Nat → Move} (stops : ¬ SlowSourceNeverStops move) :
    ∃ n, SlowSilentFrom move n := by
  unfold SlowSourceNeverStops at stops
  push Not at stops
  obtain ⟨n, calm⟩ := stops
  exact ⟨n, fun m later v raised => Bool.eq_false_of_not_eq_true (calm m v later raised)⟩

section
variable {state : Nat → State} {move : Nat → Move} (run : FairRun state move)
include run

/-- A pending button is eventually taken, unless a POR comes first (rule R184). -/
theorem FairRun.serves_button {r : Source} {i : Instr} (button : IsButton r i) {n : Nat}
    (pending : (state n).pending r = true) : ∃ m, n ≤ m ∧ (move m = .take i ∨ move m = .por) :=
  run.eventually (P := (State.pending · r = true)) (fun _ => button.mem_enabledSteps.mpr)
    (fun _ _ _ _ => button_stays (isButton_iff.mp button)) pending

/-- The micro-operation of TICK that is owed is eventually taken, unless a POR comes first (rule R184). -/
theorem FairRun.serves_tick {n : Nat} (owed : (state n).owesTick) :
    ∃ m, n ≤ m ∧ (move m = .take (tickRow (state n).tph) ∨ move m = .por) := by
  refine run.eventually (P := fun s => s.tph = (state n).tph ∧ tickEnabled s.tph s = true) ?_ ?_
    ⟨rfl, tickEnabled_tph.mpr owed⟩
  · rintro s ⟨phase, enabled⟩
    rw [← phase]
    exact tickRow_mem_enabledSteps.mpr enabled
  · rintro k s t - ⟨phase, enabled⟩ leads
    rw [← phase]
    exact tick_stays enabled leads

/-- While the slow source is silent the debt does not rise. -/
theorem FairRun.tickDebt_le_of_calm {n : Nat} (calm : SlowSilentFrom move n) {m : Nat} (later : n ≤ m) :
    (state m).tickDebt ≤ (state n).tickDebt := by
  induction m, later using Nat.le_induction with
  | base => exact le_rfl
  | succ k later ih => exact (tickDebt_le (run.leads k) (calm k later)).trans ih

/-- Once the slow source is silent, a TICK is no longer owed at some time, unless a POR comes (rule R176). -/
theorem FairRun.tick_ends {n : Nat} (calm : SlowSilentFrom move n) :
    ∃ m, n ≤ m ∧ (¬ (state m).owesTick ∨ move m = .por) := by
  induction debt : (state n).tickDebt using Nat.strong_induction_on generalizing n with
  | _ d ih =>
    by_cases owed : (state n).owesTick
    · obtain ⟨m, later, taken | por⟩ := run.serves_tick owed
      · have less : (state (m + 1)).tickDebt < d := by
          have leads := run.leads m
          rw [taken] at leads
          exact (tickDebt_lt_of_take leads).trans_le (debt ▸ run.tickDebt_le_of_calm calm later)
        obtain ⟨k, hk, ends⟩ := ih _ less (calm.mono (by omega : n ≤ m + 1)) rfl
        exact ⟨k, by omega, ends⟩
      · exact ⟨m, later, .inr por⟩
    · exact ⟨n, le_rfl, .inl owed⟩

/-- The micro-operation of an ADV that is owed is eventually taken, unless a POR comes first or the slow source never
stops (rule R184; log entry 15). -/
theorem FairRun.serves_adv {n : Nat} (owed : (state n).owesAdv) (stops : ¬ SlowSourceNeverStops move) :
    ∃ m, n ≤ m ∧ (move m = .take (advRow (state n).aph) ∨ move m = .por) := by
  by_contra never
  push Not at never
  have waits : ∀ m, n ≤ m → (state m).aph = (state n).aph ∧ (state m).owesAdv := fun m later => by
    induction m, later using Nat.le_induction with
    | base => exact ⟨rfl, owed⟩
    | succ k later ih =>
      obtain ⟨phase, waiting⟩ := ih
      rcases adv_stays waiting (run.leads k) with taken | por | ⟨same, still⟩
      · exact absurd (phase ▸ taken) (never k later).1
      · exact absurd por (never k later).2
      · exact ⟨same.trans phase, still⟩
  obtain ⟨silent, calm⟩ := exists_slowSilentFrom stops
  have calm : SlowSilentFrom move (max n silent) := calm.mono (le_max_right n silent)
  obtain ⟨m, later, ended | por⟩ := run.tick_ends calm
  · have later' : n ≤ m := (le_max_left n silent).trans later
    have free : ∀ k, m ≤ k → ¬ (state k).owesTick := fun k hk => by
      rw [← tickDebt_eq_zero_iff, ← Nat.le_zero, ← tickDebt_eq_zero_iff.mpr ended]
      exact run.tickDebt_le_of_calm (calm.mono later) hk
    obtain ⟨k, hk, taken⟩ := run.fair (advRow (state n).aph) m fun k hk => by
      obtain ⟨phase, waiting⟩ := waits k (later'.trans hk)
      rw [← phase]
      exact advRow_mem_enabledSteps.mpr (advEnabled_aph.mpr ⟨free k hk, waiting⟩)
    exact (never k (later'.trans hk)).1 taken
  · exact (never m ((le_max_left n silent).trans later)).2 por

end

/-- Settles O47: the encoding of an enabled row is a turn that runs it; and what stays enabled until it is taken is
taken, the debt of the slow source coming to an end before an ADV's turn. -/
theorem everyEnabledStepCanBeTaken : Obligations.EveryEnabledStepCanBeTaken := by
  refine ⟨fun i s enabled => ?_, fun state move run n => ⟨fun r i button => ?_, run.serves_tick, run.serves_adv⟩⟩
  · obtain ⟨t, completes⟩ := exec_of_mem_enabledSteps enabled
    exact ⟨_, _, t, (step_of_encoded_turn (wf_of_mem_enabledSteps enabled) s).trans completes, completes⟩
  · exact run.serves_button (isButton_iff.mpr button)

end Sys2Proof.Machine

/-! PROOFS. The two deterministic sequencers and the request vectors (spec/60_exceptions.md rules R186 and R187,
spec/30_encoding.md rule R76), and the idle block (spec/43_buttons.md rule R163). -/

namespace Sys2Proof.Machine

/-! ## The lists of steps, by what is owed -/

theorem tickSteps_of_owesTick {s : State} (h : s.owesTick) : tickSteps s = [tickRow s.tph] :=
  if_pos (tickEnabled_tph.mpr h)

theorem tickSteps_of_not_owesTick {s : State} (h : ¬ s.owesTick) : tickSteps s = [] :=
  if_neg (tickEnabled_tph.not.mpr h)

theorem advSteps_of_owesAdv {s : State} (h : ¬ s.owesTick) (h' : s.owesAdv) : advSteps s = [advRow s.aph] :=
  if_pos (advEnabled_aph.mpr ⟨h, h'⟩)

theorem advSteps_of_not_owesAdv {s : State} (h : ¬ s.owesAdv) : advSteps s = [] :=
  if_neg fun enabled => h (advEnabled_aph.mp enabled).2

/-- Where neither timer is owed the buttons are let in whatever PREEMPT is. -/
theorem buttonEnabled_of_free {s : State} (h : ¬ s.owesTick) (h' : ¬ s.owesAdv) (c : Config) (r : Source) :
    buttonEnabled c r s = s.pending r := by
  rw [Bool.eq_iff_iff, buttonEnabled_iff]
  simp [h, h']

theorem buttonEnabled_of_preempt {c : Config} (h : c.preempt = true) (r : Source) (s : State) :
    buttonEnabled c r s = s.pending r := by
  rw [Bool.eq_iff_iff, buttonEnabled_iff]
  simp [h]

/-- The first of a list, or the default where it is empty, is in any list with the same members, or that is empty. -/
theorem headD_mem_or_eq_nil {i : Instr} {l l' : List Instr} (same : ∀ j, j ∈ l ↔ j ∈ l') :
    l.headD i ∈ l' ∨ (l.headD i = i ∧ l' = []) := by
  cases l with
  | nil => exact .inr ⟨rfl, List.eq_nil_iff_forall_not_mem.mpr fun j h => List.not_mem_nil ((same j).mpr h)⟩
  | cons j more => exact .inl ((same j).mp List.mem_cons_self)

/-! ## The reference sequencer -/

theorem referenceChoice_of_owesTick (c : Config) {s : State} (h : s.owesTick) :
    referenceChoice c s = tickRow s.tph := by
  simp [referenceChoice, tickSteps_of_owesTick h]

theorem referenceChoice_of_owesAdv (c : Config) {s : State} (h : ¬ s.owesTick) (h' : s.owesAdv) :
    referenceChoice c s = advRow s.aph := by
  simp [referenceChoice, tickSteps_of_not_owesTick h, advSteps_of_owesAdv h h']

theorem referenceChoice_of_free (c : Config) {s : State} (h : ¬ s.owesTick) (h' : ¬ s.owesAdv) :
    referenceChoice c s = if s.pending .start then .start else if s.pending .rst then .rst
      else if s.pending .stop then .stop else .nop := by
  simp only [referenceChoice, tickSteps_of_not_owesTick h, advSteps_of_not_owesAdv h', buttonStep,
    buttonEnabled_of_free h h']
  cases s.pending .start <;> cases s.pending .rst <;> cases s.pending .stop <;> rfl

/-- The reference sequencer's choice is enabled for either value of PREEMPT: it takes a button only where neither
timer is owed. -/
theorem referenceChoice_enabled (c c' : Config) (s : State) :
    referenceChoice c s ∈ enabledSteps c' s ∨ (referenceChoice c s = .nop ∧ enabledSteps c' s = []) := by
  by_cases tick : s.owesTick
  · rw [referenceChoice_of_owesTick c tick]
    exact .inl (tickRow_mem_enabledSteps.mpr (tickEnabled_tph.mpr tick))
  by_cases adv : s.owesAdv
  · rw [referenceChoice_of_owesAdv c tick adv]
    exact .inl (advRow_mem_enabledSteps.mpr (advEnabled_aph.mpr ⟨tick, adv⟩))
  · refine headD_mem_or_eq_nil fun j => ?_
    simp only [enabledSteps, tickSteps_of_not_owesTick tick, advSteps_of_not_owesAdv adv, buttonStep,
      buttonEnabled_of_free tick adv, List.append_nil, List.nil_append]

theorem not_owesTick_iff {s : State} : ¬ s.owesTick ↔ s.tph = .idle ∧ s.pending .slow = false := by
  simp [State.owesTick]

theorem not_owesAdv_iff {s : State} : ¬ s.owesAdv ↔ s.aph = .idle ∧ s.pending .fast = false := by
  simp [State.owesAdv]

/-- Settles O51: the choice by what is owed, and where it is enabled. -/
theorem referenceSequencerChoosesByPriority : Obligations.ReferenceSequencerChoosesByPriority := fun c s =>
  ⟨referenceChoice_of_owesTick c,
    fun tph slow => referenceChoice_of_owesAdv c (not_owesTick_iff.mpr ⟨tph, slow⟩),
    fun tph slow aph fast =>
      referenceChoice_of_free c (not_owesTick_iff.mpr ⟨tph, slow⟩) (not_owesAdv_iff.mpr ⟨aph, fast⟩),
    fun b => referenceChoice_enabled c { c with preempt := b } s⟩

/-! ## The second sequencer -/

/-- The second sequencer's list has the members of enabledSteps, buttons first. -/
theorem secondChoice_enabled (c : Config) (s : State) :
    secondChoice c s ∈ enabledSteps c s ∨ (secondChoice c s = .nop ∧ enabledSteps c s = []) := by
  refine headD_mem_or_eq_nil fun j => ?_
  simp only [enabledSteps, List.mem_append]
  tauto

/-- What the second sequencer takes where no button is pending. -/
theorem headD_tickSteps_append_advSteps (s : State) :
    (tickSteps s ++ advSteps s).headD .nop =
      if s.tph ≠ .idle ∨ s.pending .slow = true then tickRow s.tph
      else if s.aph ≠ .idle ∨ s.pending .fast = true then advRow s.aph else .nop := by
  split
  · next tick => rw [tickSteps_of_owesTick tick]; rfl
  · next tick =>
    rw [tickSteps_of_not_owesTick tick]
    split
    · next adv => rw [advSteps_of_owesAdv tick adv]; rfl
    · next adv => rw [advSteps_of_not_owesAdv adv]; rfl

/-- Settles O52: with PREEMPT = true a pending button is first in the list, and without one the timers are. -/
theorem secondSequencerTakesButtonsFirst : Obligations.SecondSequencerTakesButtonsFirst := by
  refine fun c s preempt => ⟨?_, secondChoice_enabled c s⟩
  rw [← headD_tickSteps_append_advSteps]
  simp only [secondChoice, buttonStep, buttonEnabled_of_preempt preempt]
  cases s.pending .rst <;> cases s.pending .stop <;> cases s.pending .start <;> rfl

/-! ## The request vectors -/

/-- The highest pending bit is what the value of the vector is compared with. -/
theorem firstRequest_eq (v : Requests) :
    (if v.getLsbD 4 then Instr.tickK0 else if v.getLsbD 3 then .advA0 else if v.getLsbD 2 then .start
      else if v.getLsbD 1 then .rst else if v.getLsbD 0 then .stop else .nop) =
    if 16 ≤ v.toNat then .tickK0 else if 8 ≤ v.toNat then .advA0 else if 4 ≤ v.toNat then .start
      else if 2 ≤ v.toNat then .rst else if v.toNat = 1 then .stop else .nop := by
  revert v
  decide

theorem referenceChoice_of_idle (c : Config) {s : State} (tph : s.tph = .idle) (aph : s.aph = .idle) :
    referenceChoice c s = if s.pending .slow then .tickK0 else if s.pending .fast then .advA0
      else if s.pending .start then .start else if s.pending .rst then .rst
      else if s.pending .stop then .stop else .nop := by
  cases slow : s.pending .slow with
  | true => rw [referenceChoice_of_owesTick c (.inr slow), tph]; rfl
  | false =>
    have free : ¬ s.owesTick := not_owesTick_iff.mpr ⟨tph, slow⟩
    cases fast : s.pending .fast with
    | true => rw [referenceChoice_of_owesAdv c free (.inr fast), aph]; rfl
    | false => exact referenceChoice_of_free c free (not_owesAdv_iff.mpr ⟨aph, fast⟩)

/-- Settles O5: the 32 vectors one by one, and the sequencer's priority at an idle boundary. -/
theorem requestVectorSelectsTheOperation : Obligations.RequestVectorSelectsTheOperation :=
  ⟨by decide, fun s tph aph => (referenceChoice_of_idle _ tph aph).trans (firstRequest_eq s.pend)⟩

/-! ## The idle block -/

theorem State.quiescent.pending {s : State} (h : s.quiescent) (r : Source) : s.pending r = false := by
  obtain ⟨-, -, none⟩ := h
  simp [State.pending, none]

/-- Nothing is enabled in an idle block without requests. -/
theorem enabledSteps_of_quiescent (c : Config) {s : State} (h : s.quiescent) : enabledSteps c s = [] := by
  have tick : ¬ s.owesTick := not_owesTick_iff.mpr ⟨h.1, h.pending .slow⟩
  have adv : ¬ s.owesAdv := not_owesAdv_iff.mpr ⟨h.2.1, h.pending .fast⟩
  simp [enabledSteps, buttonStep, buttonEnabled, h.pending, tickSteps_of_not_owesTick tick, advSteps_of_not_owesAdv adv]

theorem freeStep_of_enabledSteps_eq_nil {c : Config} {s : State} (h : enabledSteps c s = []) :
    freeStep c s = .next s := by
  rw [freeStep, h]
  rfl

/-- Settles O42: nothing is enabled, so the block's own step is no step; the line NOP is the row NOP. -/
theorem idleBlockTakesNoStep : Obligations.IdleBlockTakesNoStep := by
  refine ⟨fun s quiet => ?_, fun _ => rfl, rfl⟩
  have nothing := enabledSteps_of_quiescent Config.block quiet
  have own := freeStep_of_enabledSteps_eq_nil nothing
  refine ⟨nothing, own, fun silent => (step_of_empty silent).trans own, ?_⟩
  have legal : Line.nop.legal s = true := by
    obtain ⟨tph, aph, -⟩ := quiet
    simp [Line.legal, State.phasesIdle, tph, aph]
  rw [runLine, legal]
  rfl

end Sys2Proof.Machine

/-! PROOFS. Reset, RST, and what a turn of the agenda does: requests and presented rows (spec/10_state.md section 8,
spec/43_buttons.md, spec/60_exceptions.md rules R172 and R183, spec/30_encoding.md section 5). -/

namespace Sys2Proof.Machine

/-! ## Reset and RST -/

/-- Settles O1: POR writes the reset state, which is quiescent. -/
theorem powerOnResetGivesEveryRegisterItsValue : Obligations.PowerOnResetGivesEveryRegisterItsValue := by
  intro s
  have quiet : (powerOnReset s).quiescent := ⟨rfl, rfl, rfl⟩
  refine ⟨powerOnReset s, rfl, ?_, rfl, rfl, rfl,
    freeStep_of_enabledSteps_eq_nil (enabledSteps_of_quiescent Config.block quiet)⟩
  exact ⟨rfl, rfl, rfl, rfl, rfl, rfl, rfl, rfl, rfl, rfl, rfl, rfl, rfl, rfl⟩

/-- Settles O38: RST is enabled where it is pending, and clears the internal counters where the configuration says
so. -/
theorem rstClearsTheCountAndStops : Obligations.RstClearsTheCountAndStops := by
  refine ⟨fun s pending => ?_, fun c s => ⟨fun clears => ?_, fun keeps => ?_⟩⟩
  · rw [IsButton.rst.exec_eq, pending]
    rfl
  · rw [microRst, if_pos clears]
    rfl
  · rw [microRst, keeps]
    rfl

/-! ## Turns -/

/-- Settles O48: a row turn runs the decoded row, or is refused. -/
theorem rowTurnRunsTheDecodedRow : Obligations.RowTurnRunsTheDecodedRow := by
  refine fun f b more s next => ⟨fun i row => ?_, fun e none => ?_⟩
  · rw [step_of_turn next, runTurn, runRow, row]
  · rw [step_of_turn next, runTurn, runRow, none]

theorem raise_raise (v : Requests) (s : State) : (s.raise v).raise v = s.raise v := by
  simp [State.raise, BitVec.or_assoc]

theorem pendVector_getLsbD (r q : Source) : (pendVector r).getLsbD (pendBit q) = decide (q = r) := by
  cases r <;> cases q <;> rfl

/-- Settles O50: a request turn raises its bits, and a source's vector has its bit alone. -/
theorem requestsSetPendingBitsAndMerge : Obligations.RequestsSetPendingBitsAndMerge := by
  refine ⟨fun v more s next => ?_, raise_raise, fun r q s => ?_⟩
  · rw [step_of_turn next]
    rfl
  · rw [pending_raise, pendVector_getLsbD]

/-! ## Presented rows -/

/-- The number of the trace word with these two bytes. -/
def traceWord (bits sel : Byte) : Nat := bits.toNat + 256 * sel.toNat

theorem traceWord_lt (bits sel : Byte) : traceWord bits sel < 2 ^ 16 := by
  unfold traceWord
  omega

theorem ofNat_traceWord (bits sel : Byte) : BitVec.ofNat 8 (traceWord bits sel) = bits := by
  apply BitVec.eq_of_toNat_eq
  rw [BitVec.toNat_ofNat, traceWord]
  omega

theorem ofNat_traceWord_div (bits sel : Byte) : BitVec.ofNat 8 (traceWord bits sel / 256) = sel := by
  apply BitVec.eq_of_toNat_eq
  rw [BitVec.toNat_ofNat, traceWord]
  omega

/-- A trace word of 16 bits is decoded by its two bytes. -/
theorem decodeTableWord_traceWord {bits sel : Byte} {i : Instr} (h : decodeBytes bits sel = .instr i) :
    decodeTableWord 16 (traceWord bits sel) = some i := by
  simp only [decodeTableWord, Nat.mod_eq_of_lt (traceWord_lt bits sel), ofNat_traceWord, ofNat_traceWord_div, h]
  rw [if_neg (traceWord_lt bits sel).not_ge]

/-- A trace word of 16 bits is presented as its first byte in the format its second byte names. -/
theorem presentWord_traceWord (bits : Byte) (f : Format) (s : State) :
    presentWord 16 (traceWord bits f.number) s = presentRow f bits s := by
  simp only [presentWord, Nat.mod_eq_of_lt (traceWord_lt bits f.number), ofNat_traceWord, ofNat_traceWord_div,
    Format.ofNumber_number]
  rw [if_neg (traceWord_lt bits f.number).not_ge]

theorem selectRow_agenda (f : Format) (bits : Byte) (s : State) : (selectRow f bits s).agenda = s.agenda := by
  cases f with
  | tph | aph =>
    simp only [selectRow]
    split <;> rfl
  | pend | cur | f3 | digit | por => rfl

/-- The step of a presented well-formed row is exec of the row on the state selected for it. -/
theorem step_presentRow {i : Instr} (wf : i.wf = true) (s : State) :
    step (presentRow i.row.format (encodeBits i) s) = exec i (selectRow i.row.format (encodeBits i) s) := by
  rw [presentRow, ← selectRow_agenda i.row.format (encodeBits i) s]
  exact step_of_encoded_turn wf _

/-- After reset the state selected for a row is one in which the row completes. -/
theorem exec_selectRow_reset {i : Instr} (wf : i.wf = true) :
    ∃ t, exec i (selectRow i.row.format (encodeBits i) State.reset) = .next t := by
  cases i
  case advClamp67 cur =>
    refine ⟨_, whenEnabled_eq_next.mpr ⟨?_, rfl⟩⟩
    revert cur
    decide
  case d3decGen07 f | d3decGenAB f | d3decGenCD f =>
    refine ⟨_, whenEnabled_eq_next.mpr ⟨?_, rfl⟩⟩
    revert f
    decide
  case encOorAB d | encOorCF d =>
    refine ⟨_, whenEnabled_eq_next.mpr ⟨?_, rfl⟩⟩
    revert d
    decide
  all_goals exact ⟨_, rfl⟩

/-- Settles O49: the trace word is presented as the row's own bits, and the row completes on the state selected for
it. -/
theorem everyRowRunsWhenPresentedAfterReset : Obligations.EveryRowRunsWhenPresentedAfterReset := by
  intro i wf
  obtain ⟨t, completes⟩ := exec_selectRow_reset wf
  refine ⟨decodeTableWord_traceWord ?_, t, ?_, completes⟩
  · exact (decodeBytes_number _ _).trans (decode_encodeBits wf)
  · have presented := presentWord_traceWord (encodeBits i) i.row.format State.reset
    rw [← completes]
    exact (congrArg step presented).trans (step_presentRow wf State.reset)

end Sys2Proof.Machine
